-- ==== Sys2Proof/Word.lean ====
section
/-! DEFINITION. The widths the block is made of: words, register numbers and BitStrings
(00_scope.md section 6, 20_memory.md R30). -/

namespace Sys2Proof

/-- A word of the port: 32 bits, bit 0 the least significant (00_scope.md section 6.1). -/
abbrev Word := BitVec 32

/-- A register number, `addr[4:0]`: 0 to 31, so every number is in the register space (R30, R42). -/
abbrev RegNum := BitVec 5

/-- A BitString: an ordered sequence of bits, index 0 first; the empty one is legal (R1, R2). -/
abbrev BitString := List Bool

end Sys2Proof
end

