-- ==== Sys2Proof/Config.lean ====
section
/-! DEFINITION. What this hardware fixes (00_scope.md section 4) and the one parameter the spec leaves open. -/

namespace Sys2Proof

/-- `LMAX`: the largest length of the operand A (R7). -/
def Config.lmax : Nat := 63

/-- `PMAX`: the largest length of the generator P (R7). -/
def Config.pmax : Nat := 63

/-- `RMAX = LMAX + PMAX - 1`: the largest length of a result R (R7, R85). -/
def Config.rmax : Nat := 125

/-- `HAM_K`: the Hamming data length (R75). -/
def Config.hamK : Nat := 4

/-- `HAM_N`: the Hamming code length (R76). -/
def Config.hamN : Nat := 7

/-- `POLY_DEFAULT = "1011"`: the generator P holds after reset (R23). -/
def Config.polyDefault : BitString := [true, false, true, true]

/-- `TCMD`: the most clock cycles a transaction may be held. OPEN in the spec and read by no rule of the
block's behaviour (R141, D22); no body, so nothing can be proved of its value (log entry 6). -/
opaque Config.tcmd : Nat

end Sys2Proof
end

