-- ==== Sys2Proof/Syntax.lean ====
section
/-! DEFINITION. The seven commands of the block (30_encoding.md R51). -/

namespace Sys2Proof

/-- One constructor per row of the opcode table. A command has no operand field: it reads A (and P for the
CRC unit) and writes R and STATUS (R53). -/
inductive Instr where
  /-- PAR.ENC: append an even-parity bit (R66). -/
  | parEnc
  /-- PAR.VER: check even parity (R67). -/
  | parVer
  /-- HAM.ENC: Hamming(7,4) encode (R75). -/
  | hamEnc
  /-- HAM.DEC: Hamming(7,4) decode with single-bit correction (R76). -/
  | hamDec
  /-- CRC.REM: remainder of A by P (R86). -/
  | crcRem
  /-- CRC.ENC: A followed by its remainder (R87). -/
  | crcEnc
  /-- CRC.VER: check that the remainder of A is all zeros (R88). -/
  | crcVer
deriving DecidableEq, Repr

end Sys2Proof
end

