-- ==== Sys2Proof/WellFormed.lean ====
section
/-! DEFINITION. Well-formedness: of a command (nothing to check, R53) and of the BitStrings a host may load
(R7, R57). -/

namespace Sys2Proof

/-- A command names no register and has no immediate (R53), so each of the seven is well formed. -/
def Instr.wellFormed (i : Instr) : Bool :=
  match i with
  | .parEnc => true
  | .parVer => true
  | .hamEnc => true
  | .hamDec => true
  | .crcRem => true
  | .crcEnc => true
  | .crcVer => true

/-- A BitString that the operand register A can hold: "`lda` and `ldp` need `len(s) ≤ 63`" (R57, R7). -/
def operandFits (s : BitString) : Bool := decide (s.length ≤ Config.lmax)

/-- A BitString that the generator register P can hold (R57, R7). -/
def generatorFits (s : BitString) : Bool := decide (s.length ≤ Config.pmax)

end Sys2Proof
end

