-- ==== Sys2Proof/Decode.lean ====
section
/-! DEFINITION. Decoding a command word (30_encoding.md R50 to R52, R54) and, after it, the encoder. -/

namespace Sys2Proof

/-- Why a word is no command, in the order R52 lists the cases. Every one of them is the error
IllegalCommand (R52); the name is for the reader. -/
inductive DecodeError where
  /-- Bits 31 to 8 are not all zero. -/
  | zeroFieldNotZero
  /-- UNIT is none of 1, 2, 3. -/
  | noSuchUnit
  /-- The unit exists and has no such FUNC. -/
  | noSuchFunc
deriving DecidableEq, Repr

/-- The field ZERO, bits 31 to 8 (R50). -/
def zeroField (w : Word) : BitVec 24 := w.extractLsb' 8 24

/-- The field UNIT, bits 7 to 4 (R50). -/
def unitField (w : Word) : BitVec 4 := w.extractLsb' 4 4

/-- The field FUNC, bits 3 to 0 (R50). -/
def funcField (w : Word) : BitVec 4 := w.extractLsb' 0 4

/-- The reason R52 gives for a word that is none of the seven. -/
def illegalReason (w : Word) : DecodeError :=
  if zeroField w ≠ 0 then .zeroFieldNotZero
  else if unitField w ≠ 1 ∧ unitField w ≠ 2 ∧ unitField w ≠ 3 then .noSuchUnit
  else .noSuchFunc

/-- "A command is recognised by equality of the whole word" (R51); the order of tests is that of R56. -/
def decode (w : Word) : Except DecodeError Instr :=
  if w = 0x00000010#32 then .ok .parEnc
  else if w = 0x00000011#32 then .ok .parVer
  else if w = 0x00000020#32 then .ok .hamEnc
  else if w = 0x00000021#32 then .ok .hamDec
  else if w = 0x00000030#32 then .ok .crcRem
  else if w = 0x00000031#32 then .ok .crcEnc
  else if w = 0x00000032#32 then .ok .crcVer
  else .error (illegalReason w)

/-- The instruction in the low `nbits` bits of `w`. A command is one 32-bit word (R50), so a number with a bit
above bit 31 is no command; the bits between `nbits` and 31 are 0. -/
def decodeTableWord (nbits w : Nat) : Option Instr :=
  let bits := w % 2 ^ nbits
  if bits < 2 ^ 32 then (decode (BitVec.ofNat 32 bits)).toOption else none

/-- The unit number of a command (R50). -/
def Instr.unit (i : Instr) : BitVec 4 :=
  match i with
  | .parEnc | .parVer => 1
  | .hamEnc | .hamDec => 2
  | .crcRem | .crcEnc | .crcVer => 3

/-- The operation inside the unit (R51). -/
def Instr.func (i : Instr) : BitVec 4 :=
  match i with
  | .parEnc | .hamEnc | .crcRem => 0
  | .parVer | .hamDec | .crcEnc => 1
  | .crcVer => 2

/-- The word of a command, laid out by the field table of R50: ZERO, UNIT, FUNC. -/
def encode (i : Instr) : Word := 0#24 ++ (i.unit ++ i.func)

end Sys2Proof
end

