-- ==== Sys2Proof/Machine/State.lean ====
section
/-! DEFINITION. The state of the block as plain data (10_state.md R10), the host's side of the port, the
outcomes of a command, and the state after reset (R23). -/

namespace Sys2Proof.Machine

/-- The error causes of R110. -/
inductive ErrorCause where
  /-- HAM.ENC with ALEN ≠ 4, HAM.DEC with ALEN ≠ 7. -/
  | invalidLength
  /-- A CRC command whose generator is empty or begins with 0 (R81). -/
  | invalidPolynomial
  /-- Kept for the taxonomy; no command of the block raises it (R111). -/
  | invalidParameter
  /-- A command word that is none of the seven (R52). -/
  | illegalCommand
deriving DecidableEq, Repr

/-- What a command's own rule answers (R56): a BitString with the flags V, C and EPOS, or an error. -/
inductive CmdOutcome where
  /-- `Ok(s, v, c, e)`. -/
  | ok (result : BitString) (v c : Bool) (epos : BitVec 3)
  /-- `Err(code)`, what `raise X` leaves. -/
  | err (cause : ErrorCause)
deriving DecidableEq, Repr

/-- One thing the host can do to the block: a port transaction, reset, or nothing (R8, R39, R131). -/
inductive HostAction where
  /-- No transaction happens: the block holds its state (R123, R133). -/
  | idle
  /-- `RegRead(idx)` (R32). -/
  | regRead (idx : RegNum)
  /-- `RegWrite(idx, v)` (R33). -/
  | regWrite (idx : RegNum) (v : Word)
  /-- The host asserts `rst`: "one more kind of step" (R131). -/
  | reset
deriving DecidableEq, Repr

/-- The seven registers of R10, STATUS field by field, and the host's two lists, which are the model's own. -/
structure State where
  /-- STATUS.ERR, bits 2 to 0: the error code of the last command (R17, R110). -/
  err : BitVec 3
  /-- STATUS.V, bit 3: the boolean of the last verify command (R14). -/
  v : Bool
  /-- STATUS.C, bit 4: `corrected` of the last HAM.DEC (R14). -/
  c : Bool
  /-- STATUS.EPOS, bits 7 to 5: the corrected index of the last HAM.DEC (R14). -/
  epos : BitVec 3
  /-- ALEN: the length of A (R15). -/
  alen : BitVec 6
  /-- PLEN: the length of P (R15). -/
  plen : BitVec 6
  /-- RLEN: the length of R (R15). -/
  rlen : BitVec 7
  /-- ADATA0: indices 0 to 31 of A (R19). -/
  adata0 : Word
  /-- ADATA1: indices 32 to 63 of A (R19). -/
  adata1 : Word
  /-- PDATA0: indices 0 to 31 of P (R19). -/
  pdata0 : Word
  /-- PDATA1: indices 32 to 63 of P (R19). -/
  pdata1 : Word
  /-- RDATA0: indices 0 to 31 of R (R16). -/
  rdata0 : Word
  /-- RDATA1: indices 32 to 63 of R (R16). -/
  rdata1 : Word
  /-- RDATA2: indices 64 to 95 of R (R16). -/
  rdata2 : Word
  /-- RDATA3: indices 96 to 127 of R (R16). -/
  rdata3 : Word
  /-- MODEL'S OWN (DESIGN CHOICE, log entry 1): what the host will do next, oldest first. Any list is a host. -/
  pending : List HostAction
  /-- MODEL'S OWN (DESIGN CHOICE, log entry 2): the words `RegRead` has returned to the host, oldest first. -/
  received : List Word
deriving DecidableEq, Repr

/-- Why a step stops the machine. There is no constructor: "There is no stuck state and no hang: every
transaction has exactly one successor state" (R124). Nothing raises a fault; that is exact, so safe. -/
inductive Fault where
deriving DecidableEq, Repr

/-- Why a step has no meaning. -/
inductive Refusal where
  /-- An instruction that has no meaning yet. No arm of exec answers it: all seven are modelled. Safe. -/
  | notModelled (mnemonic : String)
deriving DecidableEq, Repr

/-- The state right after reset (R23, R130): P is `"1011"`, every other register 0. The host has issued nothing
and read nothing (log entries 1 and 2). -/
def State.reset : State where
  err := 0
  v := false
  c := false
  epos := 0
  alen := 0
  plen := 4
  rlen := 0
  adata0 := 0
  adata1 := 0
  pdata0 := 0x0000000D
  pdata1 := 0
  rdata0 := 0
  rdata1 := 0
  rdata2 := 0
  rdata3 := 0
  pending := []
  received := []

end Sys2Proof.Machine
end

