-- ==== Sys2Proof/Machine/Bits.lean ====
section
/-! DEFINITION. The operations on BitStrings of 00_scope.md section 6.2, and the packing of a BitString into
words (20_memory.md R34). -/

namespace Sys2Proof.Machine

/-- `s[i]`; past the end it is 0, which is what the image of a BitString holds there (R34). -/
def bitAt (s : BitString) (i : Nat) : Bool := s.getD i false

/-- The `n` bits of `s` from index `start` on: `s[start .. start + n - 1]`. -/
def slice (s : BitString) (start n : Nat) : BitString := (s.drop start).take n

/-- `zeros(n)`. -/
def zeros (n : Nat) : BitString := List.replicate n false

/-- `ones(s)`, the count of indices that hold 1. -/
def ones (s : BitString) : Nat := s.count true

/-- `flip(s, i)`: the bit at index `i` replaced by its exclusive or with 1, all else unchanged. -/
def flip (s : BitString) (i : Nat) : BitString := s.set i (bitAt s i ^^ true)

/-- `flip` at each index of a list. -/
def flipAll (s : BitString) (is : List Nat) : BitString := is.foldl flip s

/-- `allzero(s)`: no index holds 1. -/
def allzero (s : BitString) : Bool := s.all (fun b => !b)

/-- The number `Σ s[b] · 2^b` (R34). -/
def packBits : BitString → Nat
  | [] => 0
  | b :: s => b.toNat + 2 * packBits s

/-- `pack(s, w)`, word number `w` of the register image of `s` (R34). -/
def pack (s : BitString) (w : Nat) : Word := BitVec.ofNat 32 (packBits (slice s (32 * w) 32))

/-- Bit `i` of a data register made of the words `ws`: bit `i mod 32` of word `i div 32` (R11, R34). -/
def dataBit (ws : List Word) (i : Nat) : Bool := (ws.getD (i / 32) 0).getLsbD (i % 32)

/-- The BitString of length `len` held in the words `ws` (R11). -/
def unpack (len : Nat) (ws : List Word) : BitString := (List.range len).map (dataBit ws)

end Sys2Proof.Machine
end

