-- ==== Sys2Proof/Machine/Flags.lean ====
section
/-! DEFINITION. The flags: how STATUS is read, the error codes, and what V, C and EPOS are computed from
(10_state.md R14, R17, 60_exceptions.md R110). -/

namespace Sys2Proof.Machine

/-- The word STATUS reads as: `ERR + 8·V + 16·C + 32·EPOS` (R17). -/
def statusWord (s : State) : Word :=
  BitVec.ofNat 32 (s.err.toNat + 8 * s.v.toNat + 16 * s.c.toNat + 32 * s.epos.toNat)

/-- The code of an error cause (R110). -/
def errorCode (x : ErrorCause) : BitVec 3 :=
  match x with
  | .invalidLength => 1
  | .invalidPolynomial => 2
  | .invalidParameter => 3
  | .illegalCommand => 4

/-- The number of ones is even: the value of V after PAR.VER (R65, R67). -/
def evenOnes (s : BitString) : Bool := ones s % 2 == 0

/-- C: a correction is applied exactly when the syndrome is not 0 (R14, R76). -/
def correctedFlag (syndrome : Nat) : Bool := syndrome != 0

/-- EPOS: `syndrome - 1`, and 0 where C is 0 (R14, R76). -/
def eposField (syndrome : Nat) : BitVec 3 := if syndrome = 0 then 0 else BitVec.ofNat 3 (syndrome - 1)

end Sys2Proof.Machine
end

