-- ==== Sys2Proof/Machine/Operands.lean ====
section
/-! DEFINITION. The three BitString views over the data registers (10_state.md R11): every operand form there is. -/

namespace Sys2Proof.Machine

/-- The words of ADATA, word 0 first. -/
def adataWords (s : State) : List Word := [s.adata0, s.adata1]

/-- The words of PDATA, word 0 first. -/
def pdataWords (s : State) : List Word := [s.pdata0, s.pdata1]

/-- The words of RDATA, word 0 first. -/
def rdataWords (s : State) : List Word := [s.rdata0, s.rdata1, s.rdata2, s.rdata3]

/-- `A`: the operand every command takes (R11, R53). -/
def operandA (s : State) : BitString := unpack s.alen.toNat (adataWords s)

/-- `P`: the generator of the CRC commands (R11, R53). -/
def operandP (s : State) : BitString := unpack s.plen.toNat (pdataWords s)

/-- `R`: the BitString the last command returned (R11). -/
def resultR (s : State) : BitString := unpack s.rlen.toNat (rdataWords s)

end Sys2Proof.Machine
end

