-- ==== Sys2Proof/Machine/Ops.lean ====
section
/-! DEFINITION. The named operations on the registers: writing a command's outcome, raising an error, the two
port transactions, reset, and taking the host's next action. -/

namespace Sys2Proof.Machine

/-- `R <- r`: RLEN and all of RDATA, so every bit at index `len(r)` and above becomes 0 (R16). -/
def writeResult (r : BitString) (s : State) : State :=
  { s with
    rlen := BitVec.ofNat 7 r.length
    rdata0 := pack r 0
    rdata1 := pack r 1
    rdata2 := pack r 2
    rdata3 := pack r 3 }

/-- The four STATUS fields; every command writes all of them (R14). -/
def writeStatus (err : BitVec 3) (v c : Bool) (epos : BitVec 3) (s : State) : State :=
  { s with err := err, v := v, c := c, epos := epos }

/-- The error outcome of R112: R becomes empty, ERR the code, V, C and EPOS 0; nothing else changes. This is all
the "exception entry" the block has: no control transfer, no saved state, no mode. -/
def raiseError (x : ErrorCause) (s : State) : State :=
  writeStatus (errorCode x) false false 0 (writeResult [] s)

/-- Step 2 of `Execute` (R56): write the outcome of a command. -/
def commit (o : CmdOutcome) (s : State) : State :=
  match o with
  | .ok r v c epos => writeStatus 0 v c epos (writeResult r s)
  | .err x => raiseError x s

/-- `RegRead(idx)`: the word it returns (R32). It changes no register. -/
def readRegister (idx : RegNum) (s : State) : Word :=
  match idx.toNat with
  | 1 => statusWord s
  | 2 => s.alen.setWidth 32
  | 3 => s.plen.setWidth 32
  | 4 => s.rlen.setWidth 32
  | 8 => s.adata0
  | 9 => s.adata1
  | 12 => s.pdata0
  | 13 => s.pdata1
  | 16 => s.rdata0
  | 17 => s.rdata1
  | 18 => s.rdata2
  | 19 => s.rdata3
  | _ => 0

/-- The register number of CMD (R18, R31). -/
def cmdNumber : RegNum := 0

/-- `RegWrite(idx, v)` of a register other than CMD: it stores into ALEN, PLEN, ADATA or PDATA, and a read-only or
reserved register ignores it (R33, R37). -/
def writeRegister (idx : RegNum) (v : Word) (s : State) : State :=
  match idx.toNat with
  | 2 => { s with alen := v.setWidth 6 }
  | 3 => { s with plen := v.setWidth 6 }
  | 8 => { s with adata0 := v }
  | 9 => { s with adata1 := v }
  | 12 => { s with pdata0 := v }
  | 13 => { s with pdata1 := v }
  | _ => s

/-- The host receives the word a `RegRead` returns (log entry 2). -/
def deliver (w : Word) (s : State) : State := { s with received := s.received ++ [w] }

/-- Reset: every register takes its reset value (R130, R133). What the host has read and is going to do is the
host's, and stays (log entries 1 and 2). -/
def resetBlock (s : State) : State :=
  { State.reset with pending := s.pending, received := s.received }

/-- The host's next action; a host with nothing to do is idle (R39, log entry 1). -/
def nextAction (s : State) : HostAction :=
  match s.pending with
  | [] => .idle
  | a :: _ => a

/-- The state with the host's next action taken off its list. -/
def takeAction (s : State) : State := { s with pending := s.pending.tail }

end Sys2Proof.Machine
end

