-- ==== Sys2Proof/Machine/Crc.lean ====
section
/-! DEFINITION. The CRC unit (42_crc.md). -/

namespace Sys2Proof.Machine

/-- A generator is valid exactly when it is not empty and its first bit is 1 (R81). -/
def validGenerator (g : BitString) : Bool := decide (1 ≤ g.length) && bitAt g 0

/-- The degree `k = len(G) - 1` (R80). -/
def degree (g : BitString) : Nat := g.length - 1

/-- `s` with `g` XORed into its first `len(g)` bits. -/
def xorFront : BitString → BitString → BitString
  | a :: s, b :: g => (a ^^ b) :: xorFront s g
  | s, [] => s
  | [], _ :: _ => []

/-- `W[i + j] := W[i + j] ^ G[j]` for `j := 0 .. k` (R82). -/
def xorWindow (w : BitString) (i : Nat) (g : BitString) : BitString := w.take i ++ xorFront (w.drop i) g

/-- One scan position: XOR the generator into the window when the leading bit is 1 (R82). -/
def crcScanStep (g w : BitString) (i : Nat) : BitString := if bitAt w i then xorWindow w i g else w

/-- The working buffer after the scan positions `0 .. n - 1`, in this order (R82). -/
def crcScan (g : BitString) (n : Nat) (w : BitString) : BitString := (List.range n).foldl (crcScanStep g) w

/-- `crc_remainder(M, G)`: append `k` zeros, scan the `len(M)` positions, keep the final `k` bits (R82). -/
def crcRemainder (m g : BitString) : BitString :=
  slice (crcScan g m.length (m ++ zeros (degree g))) m.length (degree g)

/-- `crc_encode(D, G)` (R83). -/
def crcEncode (d g : BitString) : BitString := d ++ crcRemainder d g

/-- `crc_verify(E, G)`, literally: the whole string is divided, with `k` further zeros appended (R84, D25). -/
def crcVerify (e g : BitString) : Bool := allzero (crcRemainder e g)

/-- `CRC_REM` on the operand `a` and the generator `p` (R86). -/
def crcRemOutcome (a p : BitString) : CmdOutcome :=
  if validGenerator p then .ok (crcRemainder a p) false false 0 else .err .invalidPolynomial

/-- `CRC_ENC` on the operand `a` and the generator `p` (R87). -/
def crcEncOutcome (a p : BitString) : CmdOutcome :=
  if validGenerator p then .ok (crcEncode a p) false false 0 else .err .invalidPolynomial

/-- `CRC_VER` on the operand `a` and the generator `p` (R88). -/
def crcVerOutcome (a p : BitString) : CmdOutcome :=
  if validGenerator p then .ok [] (crcVerify a p) false 0 else .err .invalidPolynomial

/-- CRC.REM: a function of A and P, written to R and STATUS (R53, R56, R86). -/
def execCrcRem (s : State) : Host.Outcome State Fault Refusal :=
  .next (commit (crcRemOutcome (operandA s) (operandP s)) s)

/-- CRC.ENC (R87). -/
def execCrcEnc (s : State) : Host.Outcome State Fault Refusal :=
  .next (commit (crcEncOutcome (operandA s) (operandP s)) s)

/-- CRC.VER (R88). -/
def execCrcVer (s : State) : Host.Outcome State Fault Refusal :=
  .next (commit (crcVerOutcome (operandA s) (operandP s)) s)

end Sys2Proof.Machine
end

