-- ==== Sys2Proof/Machine/Hamming.lean ====
section
/-! DEFINITION. The HAM unit (41_hamming.md). -/

namespace Sys2Proof.Machine

/-- `ham_encode(data)`, the layout `[p1, p2, d1, p3, d2, d3, d4]` (R70 to R72); used for four bits only. -/
def hamEncode (data : BitString) : BitString :=
  let d1 := bitAt data 0
  let d2 := bitAt data 1
  let d3 := bitAt data 2
  let d4 := bitAt data 3
  let p1 := d1 ^^ d2 ^^ d4
  let p2 := d1 ^^ d3 ^^ d4
  let p3 := d2 ^^ d3 ^^ d4
  [p1, p2, d1, p3, d2, d3, d4]

/-- `syndrome(r) = s1 + 2·s2 + 4·s3` of a 7-bit word (R73). -/
def syndrome (r : BitString) : Nat :=
  let s1 := bitAt r 0 ^^ bitAt r 2 ^^ bitAt r 4 ^^ bitAt r 6
  let s2 := bitAt r 1 ^^ bitAt r 2 ^^ bitAt r 5 ^^ bitAt r 6
  let s3 := bitAt r 3 ^^ bitAt r 4 ^^ bitAt r 5 ^^ bitAt r 6
  s1.toNat + 2 * s2.toNat + 4 * s3.toNat

/-- The working copy of `ham_decode`: the received word with the bit the syndrome names flipped (R74). -/
def hamCorrect (r : BitString) : BitString :=
  if syndrome r = 0 then r else flip r (syndrome r - 1)

/-- The data part of `ham_decode(r)`: indices 2, 4, 5, 6 of the working copy (R74). -/
def hamDecode (r : BitString) : BitString :=
  let c := hamCorrect r
  [bitAt c 2, bitAt c 4, bitAt c 5, bitAt c 6]

/-- `HAM_ENC` on the operand `a`, whose length is ALEN (R75). -/
def hamEncOutcome (a : BitString) : CmdOutcome :=
  if a.length ≠ Config.hamK then .err .invalidLength else .ok (hamEncode a) false false 0

/-- `HAM_DEC` on the operand `a`, whose length is ALEN (R76). -/
def hamDecOutcome (a : BitString) : CmdOutcome :=
  if a.length ≠ Config.hamN then .err .invalidLength
  else .ok (hamDecode a) false (correctedFlag (syndrome a)) (eposField (syndrome a))

/-- HAM.ENC: a function of A alone, written to R and STATUS (R53, R56, R75). -/
def execHamEnc (s : State) : Host.Outcome State Fault Refusal := .next (commit (hamEncOutcome (operandA s)) s)

/-- HAM.DEC (R76). -/
def execHamDec (s : State) : Host.Outcome State Fault Refusal := .next (commit (hamDecOutcome (operandA s)) s)

end Sys2Proof.Machine
end

