-- ==== Sys2Proof/Machine/Parity.lean ====
section
/-! DEFINITION. The PAR unit (40_parity.md). -/

namespace Sys2Proof.Machine

/-- `par_encode(d)`: `d` with the bit appended that makes the number of ones even (R65). -/
def parEncode (d : BitString) : BitString := d ++ [!evenOnes d]

/-- `par_verify(d)`: the number of ones is even (R65). -/
def parVerify (d : BitString) : Bool := evenOnes d

/-- `PAR_ENC` on the operand `a` (R66). -/
def parEncOutcome (a : BitString) : CmdOutcome := .ok (parEncode a) false false 0

/-- `PAR_VER` on the operand `a` (R67). -/
def parVerOutcome (a : BitString) : CmdOutcome := .ok [] (parVerify a) false 0

/-- PAR.ENC: a function of A alone, written to R and STATUS (R53, R56, R66). -/
def execParEnc (s : State) : Host.Outcome State Fault Refusal := .next (commit (parEncOutcome (operandA s)) s)

/-- PAR.VER (R67). -/
def execParVer (s : State) : Host.Outcome State Fault Refusal := .next (commit (parVerOutcome (operandA s)) s)

end Sys2Proof.Machine
end

