-- ==== Sys2Proof/Machine/Dispatch.lean ====
section
/-! DEFINITION. The meaning of each command, one arm per constructor. -/

namespace Sys2Proof.Machine

/-- The outcome of a legal command on the registers (R56). -/
def exec (i : Instr) (s : State) : Host.Outcome State Fault Refusal :=
  match i with
  | .parEnc => Sys2Proof.Machine.execParEnc s
  | .parVer => Sys2Proof.Machine.execParVer s
  | .hamEnc => Sys2Proof.Machine.execHamEnc s
  | .hamDec => Sys2Proof.Machine.execHamDec s
  | .crcRem => Sys2Proof.Machine.execCrcRem s
  | .crcEnc => Sys2Proof.Machine.execCrcEnc s
  | .crcVer => Sys2Proof.Machine.execCrcVer s

end Sys2Proof.Machine
end

