-- ==== Sys2Proof/Machine/Execute.lean ====
section
/-! DEFINITION. `Execute(w)` (30_encoding.md R56) and one host action on the block. -/

namespace Sys2Proof.Machine

/-- `Execute(w)`, the effect of `RegWrite(CMD, w)`: decode, run the command, or raise IllegalCommand (R52, R56). -/
def executeCommand (w : Word) (s : State) : Host.Outcome State Fault Refusal :=
  match decode w with
  | .ok i => exec i s
  | .error _ => .next (raiseError .illegalCommand s)

/-- One action of the host, atomic (R32, R33, R36, R131). -/
def perform (a : HostAction) (s : State) : Host.Outcome State Fault Refusal :=
  match a with
  | .idle => .next s
  | .regRead idx => .next (deliver (readRegister idx s) s)
  | .regWrite idx v => if idx = cmdNumber then executeCommand v s else .next (writeRegister idx v s)
  | .reset => .next (resetBlock s)

/-- The actions of a list one after the other, each wholly before the next (R39). -/
def performAll : List HostAction → State → Host.Outcome State Fault Refusal
  | [], s => .next s
  | a :: rest, s =>
    match perform a s with
    | .next t => performAll rest t
    | .fault r => .fault r
    | .refused r => .refused r

end Sys2Proof.Machine
end

