-- ==== Sys2Proof/Machine/Step.lean ====
section
/-! DEFINITION. One step of the machine: the host's next action (00_scope.md R8), and how a command is placed
there. -/

namespace Sys2Proof.Machine

/-- One port transaction, reset, or, when the host issues nothing, no change (R8, R39, R131). -/
def step (s : State) : Host.Outcome State Fault Refusal := perform (nextAction s) (takeAction s)

/-- `s` with the instruction in the low `nbits` bits of `w` as the host's next transaction,
`RegWrite(CMD, w)`: the place a command comes from (R13, R56, log entry 3). -/
def State.withFetchWord (s : State) (nbits w : Nat) : State :=
  { s with pending := .regWrite cmdNumber (BitVec.ofNat 32 (w % 2 ^ nbits)) :: s.pending }

end Sys2Proof.Machine
end

