-- ==== Sys2Proof/Machine/Assembler.lean ====
section
/-! DEFINITION. Host programs: the assembler lines and pseudo-instructions of 30_encoding.md R55 and R57 as
actions on the port, and the mapping of the software calls to lines (44_environment.md R108). -/

namespace Sys2Proof.Machine

/-- `REG` of an assembler line: a name of the register map, or `#n` (R31, R55). -/
inductive RegName where
  | cmd | status | alen | plen | rlen | adata0 | adata1 | pdata0 | pdata1
  | rdata0 | rdata1 | rdata2 | rdata3
  | num (n : RegNum)
deriving DecidableEq, Repr

/-- The number of a register name (R31). -/
def regNumber (r : RegName) : RegNum :=
  match r with
  | .cmd => 0
  | .status => 1
  | .alen => 2
  | .plen => 3
  | .rlen => 4
  | .adata0 => 8
  | .adata1 => 9
  | .pdata0 => 12
  | .pdata1 => 13
  | .rdata0 => 16
  | .rdata1 => 17
  | .rdata2 => 18
  | .rdata3 => 19
  | .num n => n

/-- A line of a host program (R55, R57). -/
inductive HostLine where
  /-- `wr REG, value`. -/
  | wr (r : RegName) (v : Word)
  /-- `rd REG`. -/
  | rd (r : RegName)
  /-- One of the seven mnemonics. -/
  | mnemonic (i : Instr)
  /-- `lda "s"`. -/
  | lda (s : BitString)
  /-- `ldp "s"`. -/
  | ldp (s : BitString)
  /-- `cmd value`. -/
  | cmd (v : Word)
  /-- `rdr`. -/
  | rdr
  /-- `reset`. -/
  | reset
deriving DecidableEq, Repr

/-- "`lda` and `ldp` need `len(s) ≤ 63`" (R57). -/
def lineWellFormed (l : HostLine) : Bool :=
  match l with
  | .lda s => operandFits s
  | .ldp s => generatorFits s
  | _ => true

/-- `ceil(n / 32)`, the words that hold `n` bits. -/
def wordCount (n : Nat) : Nat := (n + 31) / 32

/-- The writes that load a BitString: its length, then its words (R57). -/
def loadActions (lenReg dataReg : Nat) (s : BitString) : List HostAction :=
  .regWrite (BitVec.ofNat 5 lenReg) (BitVec.ofNat 32 s.length) ::
    (List.range (wordCount s.length)).map fun w => .regWrite (BitVec.ofNat 5 (dataReg + w)) (pack s w)

/-- The transactions a line expands to when it is issued in state `s`; only `rdr` looks at `s`, for the RLEN it has
"just read" (R55, R57). -/
def lineActions (l : HostLine) (s : State) : List HostAction :=
  match l with
  | .wr r v => [.regWrite (regNumber r) v]
  | .rd r => [.regRead (regNumber r)]
  | .mnemonic i => [.regWrite cmdNumber (encode i)]
  | .lda a => loadActions 2 8 a
  | .ldp p => loadActions 3 12 p
  | .cmd v => [.regWrite cmdNumber v]
  | .rdr => .regRead 1 :: .regRead 4 ::
      (List.range (wordCount s.rlen.toNat)).map fun w => .regRead (BitVec.ofNat 5 (16 + w))
  | .reset => [.reset]

/-- The lines of a host program one after the other (R55, R39). -/
def runLines : List HostLine → State → Host.Outcome State Fault Refusal
  | [], s => .next s
  | l :: rest, s =>
    match performAll (lineActions l s) s with
    | .next t => runLines rest t
    | .fault r => .fault r
    | .refused r => .refused r

/-- A digit of the listing, upper case. -/
def hexDigit (n : Nat) : Char := if n < 10 then Char.ofNat (48 + n) else Char.ofNat (55 + n)

/-- A word as eight hexadecimal digits. -/
def hexWord (w : Word) : List Char := (List.range 8).map fun i => hexDigit (w.toNat / 16 ^ (7 - i) % 16)

/-- A register number as two decimal digits. -/
def decNumber (n : RegNum) : List Char := [hexDigit (n.toNat / 10), hexDigit (n.toNat % 10)]

/-- The listing form of an action issued in state `s`: `W nn vvvvvvvv`, or `R nn -> vvvvvvvv` with the word
returned (R55); reset and idle cycles are no transactions and list nothing. -/
def listing (a : HostAction) (s : State) : List Char :=
  match a with
  | .regWrite n v => 'W' :: ' ' :: decNumber n ++ ' ' :: hexWord v
  | .regRead n => 'R' :: ' ' :: decNumber n ++ [' ', '-', '>', ' '] ++ hexWord (readRegister n s)
  | .idle => []
  | .reset => []

/-- The calls of the software codecs that a test bench carries out on the block (R108). -/
inductive EcsCall where
  | parityEncode (d : BitString)
  | parityVerify (e : BitString)
  | hammingEncode (d : BitString)
  | hammingDecode (e : BitString)
  | crcRemainder (m p : BitString)
  | crcEncode (d p : BitString)
  | crcVerify (e p : BitString)
  /-- With the default generator, which P holds after reset. -/
  | crcEncodeDefault (d : BitString)
  /-- With the default generator, which P holds after reset. -/
  | crcVerifyDefault (e : BitString)
deriving DecidableEq, Repr

/-- The host program of a call (R108). -/
def ecsProgram (k : EcsCall) : List HostLine :=
  match k with
  | .parityEncode d => [.lda d, .mnemonic .parEnc]
  | .parityVerify e => [.lda e, .mnemonic .parVer]
  | .hammingEncode d => [.lda d, .mnemonic .hamEnc]
  | .hammingDecode e => [.lda e, .mnemonic .hamDec]
  | .crcRemainder m p => [.ldp p, .lda m, .mnemonic .crcRem]
  | .crcEncode d p => [.ldp p, .lda d, .mnemonic .crcEnc]
  | .crcVerify e p => [.ldp p, .lda e, .mnemonic .crcVer]
  | .crcEncodeDefault d => [.lda d, .mnemonic .crcEnc]
  | .crcVerifyDefault e => [.lda e, .mnemonic .crcVer]

end Sys2Proof.Machine
end

