-- ==== Sys2Proof/Machine/Port.lean ====
section
/-! DEFINITION. How a transaction is carried (20_memory.md R42, 70_reset_and_hazards.md R131): the pins at one
rising edge of `clk` as a host action. The block's behaviour reads none of them (R8, log entry 5). -/

namespace Sys2Proof.Machine

/-- The signals of R42 in one clock cycle; `rdata` is computed by `portRdata`. -/
structure PortCycle where
  /-- Input, active high (R130). -/
  rst : Bool
  /-- Input: the host presents a transaction. -/
  sel : Bool
  /-- Input: 1 for `RegWrite`, 0 for `RegRead`. -/
  wr : Bool
  /-- Input: the register number. -/
  addr : RegNum
  /-- Input: the value written. -/
  wdata : Word
  /-- Output: the block takes the transaction in this cycle. -/
  ready : Bool
deriving DecidableEq, Repr

/-- What one clock cycle does: reset while `rst = 1`; else a transaction where `sel = 1` and `ready = 1`; else
nothing (R42, R130, R131). A transaction still held when `rst` rises therefore does not happen. -/
def portAction (p : PortCycle) : HostAction :=
  if p.rst then .reset
  else if p.sel && p.ready then
    (if p.wr then .regWrite p.addr p.wdata else .regRead p.addr)
  else .idle

/-- `rdata`, valid in the cycle where `sel = 1`, `wr = 0` and `ready = 1` (R42). -/
def portRdata (p : PortCycle) (s : State) : Option Word :=
  match portAction p with
  | .regRead idx => some (readRegister idx s)
  | _ => none

/-- The transaction of the cycle is presented and held (R42). -/
def stalled (p : PortCycle) : Bool := !p.rst && p.sel && !p.ready

/-- "While `rst = 1` no transaction is accepted (`ready = 0`)" (R131). -/
def readyLegal (p : PortCycle) : Bool := !(p.rst && p.ready)

/-- "The host holds `sel`, `wr`, `addr` and `wdata` steady until then" (R42), unless reset intervenes (R131). -/
def holdsSteady : List PortCycle → Bool
  | p :: q :: rest =>
    (!stalled p || q.rst || (q.sel && q.wr == p.wr && q.addr == p.addr && q.wdata == p.wdata)) &&
      holdsSteady (q :: rest)
  | _ => true

/-- No transaction is held for more than `limit` cycles (R42, R141); `run` counts the held cycles just before. -/
def stallsWithin (limit : Nat) : Nat → List PortCycle → Bool
  | _, [] => true
  | run, p :: rest =>
    if stalled p then decide (run + 1 ≤ limit) && stallsWithin limit (run + 1) rest
    else stallsWithin limit 0 rest

/-- The lists of cycles R42 and R131 allow. The bound is the open parameter `TCMD`. -/
def legalCycles (ps : List PortCycle) : Bool :=
  ps.all readyLegal && holdsSteady ps && stallsWithin Config.tcmd 0 ps

/-- The host actions a list of cycles carries, in order (R39). -/
def portActions (ps : List PortCycle) : List HostAction := ps.map portAction

end Sys2Proof.Machine
end

