-- ==== Sys2Proof/Safety.lean ====
section
/-! DEFINITION. The terms the claims are stated in: the invariants of every reachable state (10_state.md R24), what
a command leaves, and what it keeps. -/

namespace Sys2Proof.Machine

/-- R24 (a): `RLEN ≤ 125`. -/
abbrev RlenBounded (s : State) : Prop := s.rlen.toNat ≤ Config.rmax

/-- R24 (b): every RDATA bit at index `RLEN` and above is 0. -/
abbrev ResultTailZero (s : State) : Prop := ∀ i < 128, s.rlen.toNat ≤ i → dataBit (rdataWords s) i = false

/-- R24 (c): `ERR ∈ {0, 1, 2, 4}`. -/
abbrev ErrLegal (s : State) : Prop := s.err = 0 ∨ s.err = 1 ∨ s.err = 2 ∨ s.err = 4

/-- R24 (d): an error leaves no result and no flag. -/
abbrev ErrorClears (s : State) : Prop := s.err ≠ 0 → s.rlen = 0 ∧ s.v = false ∧ s.c = false ∧ s.epos = 0

/-- R24 (e): EPOS is 0 where C is 0, and at most 6. -/
abbrev EposLegal (s : State) : Prop := (s.c = false → s.epos = 0) ∧ s.epos.toNat ≤ 6

/-- R24 (f): at most one of V and C is 1. -/
abbrev OneFlagAtMost (s : State) : Prop := ¬ (s.v = true ∧ s.c = true)

/-- R24 (g): STATUS bits 31 to 8 read 0. -/
abbrev StatusHighZero (s : State) : Prop := (readRegister 1 s).extractLsb' 8 24 = 0#24

/-- All of R24. -/
structure Inv (s : State) : Prop where
  rlenBounded : RlenBounded s
  resultTailZero : ResultTailZero s
  errLegal : ErrLegal s
  errorClears : ErrorClears s
  eposLegal : EposLegal s
  oneFlagAtMost : OneFlagAtMost s
  statusHighZero : StatusHighZero s

/-- The FRAME of a command: ALEN, ADATA, PLEN, PDATA and the host's two lists (the model's own, log entries 1 and
2) are as before. A command writes R, RLEN and the four STATUS fields "and nothing else" (R53, R56). -/
structure KeepsOperands (s t : State) : Prop where
  alen : t.alen = s.alen
  plen : t.plen = s.plen
  adata0 : t.adata0 = s.adata0
  adata1 : t.adata1 = s.adata1
  pdata0 : t.pdata0 = s.pdata0
  pdata1 : t.pdata1 = s.pdata1
  pending : t.pending = s.pending
  received : t.received = s.received

/-- `R <- r` has happened (R16): RLEN, the BitString R, and 0 in every RDATA bit at index `len(r)` and above. -/
structure HoldsResult (r : BitString) (t : State) : Prop where
  rlen : t.rlen.toNat = r.length
  result : resultR t = r
  tail : ∀ i < 128, r.length ≤ i → dataBit (rdataWords t) i = false

/-- The four STATUS fields (R14, R17). -/
structure HoldsStatus (err : BitVec 3) (v c : Bool) (epos : BitVec 3) (t : State) : Prop where
  err : t.err = err
  v : t.v = v
  c : t.c = c
  epos : t.epos = epos

/-- The error outcome of R112 with an error code: R empty and zero, V, C and EPOS 0, the operands kept. -/
structure ErrorOutcome (code : BitVec 3) (s t : State) : Prop where
  result : HoldsResult [] t
  status : HoldsStatus code false false 0 t
  keeps : KeepsOperands s t

/-- Two states hold the same R, RLEN and STATUS. -/
structure SameOutcome (s t : State) : Prop where
  rlen : s.rlen = t.rlen
  rdata : rdataWords s = rdataWords t
  err : s.err = t.err
  v : s.v = t.v
  c : s.c = t.c
  epos : s.epos = t.epos

end Sys2Proof.Machine
end

