-- ==== Sys2Proof/Certificates/Slice0/Obligations.lean ====
section
/-! DEFINITION. The statements for the provers, from the spec's numbered rules. -/

namespace Sys2Proof.Claims

open Sys2Proof Sys2Proof.Machine

/-- A BitString as a polynomial over the integers modulo 2, index 0 the highest power (42_crc.md section 4). -/
noncomputable def bitPoly : BitString → Polynomial (ZMod 2)
  | [] => 0
  | b :: s => (if b then Polynomial.X ^ s.length else 0) + bitPoly s

/-- What the block holds after the host program of a software call (R108): the value the function returns, or the
error it raises. -/
def CallAnswered (k : EcsCall) (t : State) : Prop :=
  match k with
  | .parityEncode d => HoldsResult (parEncode d) t ∧ HoldsStatus 0 false false 0 t
  | .parityVerify e => HoldsResult [] t ∧ HoldsStatus 0 (parVerify e) false 0 t
  | .hammingEncode d =>
    if d.length = 4 then HoldsResult (hamEncode d) t ∧ HoldsStatus 0 false false 0 t
    else HoldsResult [] t ∧ HoldsStatus 1 false false 0 t
  | .hammingDecode e =>
    if e.length = 7 then HoldsResult (hamDecode e) t ∧
      HoldsStatus 0 false (decide (syndrome e ≠ 0)) (BitVec.ofNat 3 (syndrome e - 1)) t
    else HoldsResult [] t ∧ HoldsStatus 1 false false 0 t
  | .crcRemainder m p =>
    if validGenerator p then HoldsResult (crcRemainder m p) t ∧ HoldsStatus 0 false false 0 t
    else HoldsResult [] t ∧ HoldsStatus 2 false false 0 t
  | .crcEncode d p =>
    if validGenerator p then HoldsResult (d ++ crcRemainder d p) t ∧ HoldsStatus 0 false false 0 t
    else HoldsResult [] t ∧ HoldsStatus 2 false false 0 t
  | .crcVerify e p =>
    if validGenerator p then HoldsResult [] t ∧ HoldsStatus 0 (allzero (crcRemainder e p)) false 0 t
    else HoldsResult [] t ∧ HoldsStatus 2 false false 0 t
  | .crcEncodeDefault d =>
    HoldsResult (d ++ crcRemainder d Config.polyDefault) t ∧ HoldsStatus 0 false false 0 t
  | .crcVerifyDefault e =>
    HoldsResult [] t ∧ HoldsStatus 0 (allzero (crcRemainder e Config.polyDefault)) false 0 t

/-- The calls whose BitStrings the block can hold, issued where P is what the call takes it to be (R108). -/
def CallFits (k : EcsCall) (s : State) : Prop :=
  (∀ l ∈ ecsProgram k, lineWellFormed l = true) ∧
    match k with
    | .crcEncodeDefault _ => operandP s = Config.polyDefault
    | .crcVerifyDefault _ => operandP s = Config.polyDefault
    | _ => True

end Sys2Proof.Claims

open Sys2Proof Sys2Proof.Machine Sys2Proof.Claims

/-! ### The PAR unit -/

/-- R66: `R <- par_encode(A)`: A copied, then the bit that is 1 exactly when the ones of A are odd in number. -/
def Obligations.ParEncAppendsParityBit : Prop :=
  ∀ s : State, ∃ t : State, exec .parEnc s = .next t ∧
    (∃ b : Bool, (b = true ↔ ones (operandA s) % 2 = 1) ∧ HoldsResult (operandA s ++ [b]) t) ∧
    t.rlen.toNat = s.alen.toNat + 1 ∧ HoldsStatus 0 false false 0 t ∧ KeepsOperands s t

/-- R67: V is 1 exactly when the ones of A are even in number, and R is empty. -/
def Obligations.ParVerReportsEvenParity : Prop :=
  ∀ s : State, ∃ t : State, exec .parVer s = .next t ∧
    HoldsResult [] t ∧ HoldsStatus 0 (decide (ones (operandA s) % 2 = 0)) false 0 t ∧ KeepsOperands s t

/-- R69: what `par_encode` gives verifies, for every BitString. -/
def Obligations.ParityRoundTrip : Prop := ∀ d : BitString, parVerify (parEncode d) = true

/-- R68: flipping `m` distinct indices of an encoded string is detected exactly when `m` is odd. -/
def Obligations.ParityDetectsExactlyOddFlips : Prop :=
  ∀ (d : BitString) (is : List Nat), is.Nodup → (∀ i ∈ is, i < (parEncode d).length) →
    (parVerify (flipAll (parEncode d) is) = false ↔ is.length % 2 = 1)

/-! ### The HAM unit -/

/-- R75 with R71 and R72: seven bits `[p1, p2, d1, p3, d2, d3, d4]` for four, InvalidLength for every other length. -/
def Obligations.HamEncEncodesFourBits : Prop :=
  (∀ s : State, s.alen.toNat = 4 →
    let d := fun j : Nat => bitAt (operandA s) (j - 1)
    ∃ t : State, exec .hamEnc s = .next t ∧
      HoldsResult [d 1 ^^ d 2 ^^ d 4, d 1 ^^ d 3 ^^ d 4, d 1, d 2 ^^ d 3 ^^ d 4, d 2, d 3, d 4] t ∧
      HoldsStatus 0 false false 0 t ∧ KeepsOperands s t) ∧
  (∀ s : State, s.alen.toNat ≠ 4 → ∃ t : State, exec .hamEnc s = .next t ∧ ErrorOutcome 1 s t)

/-- R76 with R73 and R74: the syndrome, the bit it names flipped, the data at 2, 4, 5, 6, C and EPOS; InvalidLength for
every length but seven. -/
def Obligations.HamDecCorrectsAndReports : Prop :=
  (∀ s : State, s.alen.toNat = 7 →
    let r := fun j : Nat => bitAt (operandA s) j
    let syn := (r 0 ^^ r 2 ^^ r 4 ^^ r 6).toNat + 2 * (r 1 ^^ r 2 ^^ r 5 ^^ r 6).toNat +
      4 * (r 3 ^^ r 4 ^^ r 5 ^^ r 6).toNat
    let c := fun j : Nat => if syn = j + 1 then !r j else r j
    ∃ t : State, exec .hamDec s = .next t ∧ HoldsResult [c 2, c 4, c 5, c 6] t ∧
      HoldsStatus 0 false (decide (syn ≠ 0)) (if syn = 0 then 0 else BitVec.ofNat 3 (syn - 1)) t ∧
      KeepsOperands s t) ∧
  (∀ s : State, s.alen.toNat ≠ 7 → ∃ t : State, exec .hamDec s = .next t ∧ ErrorOutcome 1 s t)

/-- R78 on the block: a clean coded word and every single flip of one give the data back, with C and EPOS saying
which index was flipped. -/
def Obligations.HamDecRoundTripAndSingleErrors : Prop :=
  ∀ (s : State) (d : BitString), d.length = 4 →
    (operandA s = hamEncode d → ∃ t : State, exec .hamDec s = .next t ∧ HoldsResult d t ∧
      HoldsStatus 0 false false 0 t) ∧
    (∀ i < 7, operandA s = flip (hamEncode d) i → ∃ t : State, exec .hamDec s = .next t ∧ HoldsResult d t ∧
      HoldsStatus 0 false true (BitVec.ofNat 3 i) t)

/-- 41_hamming.md section 3 (double errors): every two flips of a coded word give wrong data with C = 1 and no
error. -/
def Obligations.HamDecMiscorrectsDoubleErrors : Prop :=
  ∀ (s : State) (d : BitString) (i j : Nat), d.length = 4 → i < j → j < 7 →
    operandA s = flip (flip (hamEncode d) i) j →
    ∃ t : State, exec .hamDec s = .next t ∧ t.err = 0 ∧ t.c = true ∧ (resultR t).length = 4 ∧ resultR t ≠ d

/-- R73's last sentence: the syndrome of a coded word is 0, and of a coded word with index `i` flipped `i + 1`; with
the definition of the syndrome. -/
def Obligations.SyndromeNamesTheFlippedIndex : Prop :=
  (∀ r : BitString, syndrome r =
    (bitAt r 0 ^^ bitAt r 2 ^^ bitAt r 4 ^^ bitAt r 6).toNat +
    2 * (bitAt r 1 ^^ bitAt r 2 ^^ bitAt r 5 ^^ bitAt r 6).toNat +
    4 * (bitAt r 3 ^^ bitAt r 4 ^^ bitAt r 5 ^^ bitAt r 6).toNat ∧ syndrome r ≤ 7) ∧
  ∀ d : BitString, d.length = 4 →
    syndrome (hamEncode d) = 0 ∧ ∀ (r : BitString) (i : Nat), i < 7 → r = flip (hamEncode d) i → syndrome r = i + 1

/-! ### The CRC unit -/

/-- R86: the remainder of A by P, or InvalidPolynomial. -/
def Obligations.CrcRemGivesRemainder : Prop :=
  (∀ s : State, s.plen.toNat ≠ 0 → bitAt (operandP s) 0 = true → ∃ t : State, exec .crcRem s = .next t ∧
    HoldsResult (crcRemainder (operandA s) (operandP s)) t ∧ t.rlen.toNat = s.plen.toNat - 1 ∧
    HoldsStatus 0 false false 0 t ∧ KeepsOperands s t) ∧
  (∀ s : State, s.plen.toNat = 0 ∨ bitAt (operandP s) 0 = false → ∃ t : State, exec .crcRem s = .next t ∧
    ErrorOutcome 2 s t)

/-- R87: A followed by its remainder by P, or InvalidPolynomial. -/
def Obligations.CrcEncAppendsRemainder : Prop :=
  (∀ s : State, s.plen.toNat ≠ 0 → bitAt (operandP s) 0 = true → ∃ t : State, exec .crcEnc s = .next t ∧
    HoldsResult (operandA s ++ crcRemainder (operandA s) (operandP s)) t ∧
    t.rlen.toNat = s.alen.toNat + s.plen.toNat - 1 ∧ HoldsStatus 0 false false 0 t ∧ KeepsOperands s t) ∧
  (∀ s : State, s.plen.toNat = 0 ∨ bitAt (operandP s) 0 = false → ∃ t : State, exec .crcEnc s = .next t ∧
    ErrorOutcome 2 s t)

/-- R88: V is 1 exactly when no bit of the remainder of A by P is 1, and R is empty; or InvalidPolynomial. -/
def Obligations.CrcVerReportsZeroRemainder : Prop :=
  (∀ s : State, s.plen.toNat ≠ 0 → bitAt (operandP s) 0 = true → ∃ t : State, exec .crcVer s = .next t ∧
    HoldsResult [] t ∧ HoldsStatus 0 (decide (true ∉ crcRemainder (operandA s) (operandP s))) false 0 t ∧
    KeepsOperands s t) ∧
  (∀ s : State, s.plen.toNat = 0 ∨ bitAt (operandP s) 0 = false → ∃ t : State, exec .crcVer s = .next t ∧
    ErrorOutcome 2 s t)

/-- R82: "after the loop `W[0 .. n−1]` is all zero", and a step never touches an index below its own. -/
def Obligations.CrcScanClearsTheScannedBits : Prop :=
  ∀ (g w : BitString) (n : Nat), validGenerator g = true → n + degree g ≤ w.length →
    (∀ i < n, bitAt (crcScan g n w) i = false) ∧
    (∀ i j : Nat, j < i → bitAt (crcScanStep g w i) j = bitAt w j)

/-- 42_crc.md section 2 (the long division): the remainder is the one string of `k` bits that XORing shifts of the
generator at scan positions leaves. -/
def Obligations.CrcRemainderIsTheDivisionRemainder : Prop :=
  ∀ m g r : BitString, validGenerator g = true → r.length = degree g →
    (crcRemainder m g = r ↔ ∃ q : List Nat, (∀ i ∈ q, i < m.length) ∧
      q.foldl (fun w i => xorWindow w i g) (m ++ zeros (degree g)) = zeros m.length ++ r)

/-- R85: the lengths, and that no result of the block exceeds 125 bits. -/
def Obligations.CrcLengths : Prop :=
  (∀ m g : BitString, validGenerator g = true →
    (crcRemainder m g).length = degree g ∧ (crcEncode m g).length = m.length + degree g ∧
    ∀ n, (crcScan g n (m ++ zeros (degree g))).length = m.length + degree g) ∧
  ∀ s : State, (crcEncode (operandA s) (operandP s)).length ≤ Config.rmax ∧
    (crcRemainder (operandA s) (operandP s)).length ≤ Config.rmax

/-- 42_crc.md section 4 (clean round trip): for every data and every valid generator. -/
def Obligations.CrcCleanRoundTrip : Prop :=
  ∀ d p : BitString, validGenerator p = true → crcVerify (crcEncode d p) p = true

/-- 42_crc.md section 4: `crc_remainder(M, G)` is `M(x)·x^k mod G(x)` over the integers modulo 2. -/
def Obligations.CrcRemainderIsPolynomialRemainder : Prop :=
  ∀ m g : BitString, validGenerator g = true →
    bitPoly (crcRemainder m g) = (bitPoly m * Polynomial.X ^ degree g) %ₘ bitPoly g

/-- 42_crc.md section 4: a corruption goes undetected exactly when `G(x)` divides `e(x)·x^k`. -/
def Obligations.CrcMissesExactlyTheMultiples : Prop :=
  ∀ (d g : BitString) (is : List Nat), validGenerator g = true →
    (crcVerify (flipAll (crcEncode d g) is) g = true ↔
      bitPoly g ∣ bitPoly (flipAll (zeros (crcEncode d g).length) is) * Polynomial.X ^ degree g)

/-- 42_crc.md section 4: whether a corruption is detected depends on the flipped positions, not on the data. -/
def Obligations.CrcDetectionIndependentOfData : Prop :=
  ∀ (d d' g : BitString) (is : List Nat), validGenerator g = true → d.length = d'.length →
    crcVerify (flipAll (crcEncode d g) is) g = crcVerify (flipAll (crcEncode d' g) is) g

/-- 42_crc.md section 4 (a): a single flip is missed exactly by the generators `"1"` followed by zeros. -/
def Obligations.CrcSingleFlipDetected : Prop :=
  ∀ (d g : BitString) (i : Nat), validGenerator g = true → i < (crcEncode d g).length →
    (crcVerify (flip (crcEncode d g) i) g = true ↔ g = true :: zeros (degree g))

/-- 42_crc.md section 4 (b): every burst of at most `k` bits is detected when `G[k]` is 1 and `k ≥ 1`. -/
def Obligations.CrcShortBurstDetected : Prop :=
  ∀ (d g : BitString) (start : Nat) (is : List Nat), validGenerator g = true → 1 ≤ degree g →
    bitAt g (degree g) = true → is ≠ [] → is.Nodup →
    (∀ i ∈ is, start ≤ i ∧ i < start + degree g ∧ i < (crcEncode d g).length) →
    crcVerify (flipAll (crcEncode d g) is) g = false

/-- 42_crc.md section 4 (c), its positive half: an odd number of flips is detected when `ones(G)` is even. -/
def Obligations.CrcOddFlipsDetectedByEvenGenerator : Prop :=
  ∀ (d g : BitString) (is : List Nat), validGenerator g = true → ones g % 2 = 0 → is.Nodup →
    (∀ i ∈ is, i < (crcEncode d g).length) → is.length % 2 = 1 →
    crcVerify (flipAll (crcEncode d g) is) g = false

/-- 42_crc.md section 4 (e): with `"11"` the CRC is the parity code. -/
def Obligations.CrcElevenIsParity : Prop :=
  ∀ d : BitString, crcEncode d [true, true] = parEncode d ∧ crcVerify d [true, true] = parVerify d

/-- R91: the generators `"1"`, `"10"`, `"100"`, ... are accepted; the remainder is zeros, encode appends zeros, and
verify is true for every message. -/
def Obligations.CrcDegenerateGenerators : Prop :=
  ∀ k : Nat, validGenerator (true :: zeros k) = true ∧
    (∀ m : BitString, crcRemainder m (true :: zeros k) = zeros k ∧ crcEncode m (true :: zeros k) = m ++ zeros k ∧
      crcVerify m (true :: zeros k) = true) ∧
    ∀ s : State, operandP s = true :: zeros k → ∀ i ∈ [Instr.crcRem, Instr.crcEnc, Instr.crcVer],
      ∃ t : State, exec i s = .next t ∧ t.err = 0

/-! ### All commands -/

/-- R53: every command completes and writes R, RLEN and the STATUS fields and nothing else. -/
def Obligations.CommandsKeepOperands : Prop :=
  ∀ (i : Instr) (s : State), ∃ t : State, exec i s = .next t ∧ KeepsOperands s t

/-- R52: a word that is none of the seven leaves the error outcome with ERR = 4. -/
def Obligations.IllegalWordRaisesIllegalCommand : Prop :=
  ∀ (w : Word) (s : State),
    w ∉ [0x10#32, 0x11#32, 0x20#32, 0x21#32, 0x30#32, 0x31#32, 0x32#32] →
    ∃ t : State, executeCommand w s = .next t ∧ ErrorOutcome 4 s t

/-- R110: the complete list of error outcomes. -/
def Obligations.ErrorCodesAreComplete : Prop :=
  ∀ (w : Word) (s : State), ∃ t : State, executeCommand w s = .next t ∧
    t.err =
      (if w = 0x10 ∨ w = 0x11 then 0
       else if w = 0x20 then (if s.alen.toNat = 4 then 0 else 1)
       else if w = 0x21 then (if s.alen.toNat = 7 then 0 else 1)
       else if w = 0x30 ∨ w = 0x31 ∨ w = 0x32 then
         (if s.plen.toNat = 0 ∨ bitAt (operandP s) 0 = false then 2 else 0)
       else 4)

/-- R112: whenever a command leaves ERR ≠ 0, it leaves the whole error outcome. -/
def Obligations.ErrorsLeaveTheErrorOutcome : Prop :=
  ∀ (w : Word) (s : State), ∃ t : State, executeCommand w s = .next t ∧
    (t.err ≠ 0 → (t.err = 1 ∨ t.err = 2 ∨ t.err = 4) ∧ ErrorOutcome t.err s t)

/-- 10_state.md section 3: V is set by the verify commands alone, C by HAM.DEC alone, and EPOS is 0 where C is 0. -/
def Obligations.FlagsAreSetOnlyByTheirCommands : Prop :=
  ∀ (w : Word) (s : State), ∃ t : State, executeCommand w s = .next t ∧
    (t.v = true → (w = 0x11 ∨ w = 0x32) ∧ t.err = 0) ∧ (t.c = true → w = 0x21 ∧ t.err = 0) ∧
    (t.c = false → t.epos = 0) ∧ t.epos.toNat ≤ 6

/-- R3 and R56: R, RLEN and STATUS after a command depend on its word, A and P and on nothing else; for the words of
the PAR and HAM units not on P. -/
def Obligations.OutcomeDependsOnlyOnWordAAndP : Prop :=
  ∀ (w : Word) (s s' : State), operandA s = operandA s' →
    (operandP s = operandP s' ∨ w ∈ [0x10#32, 0x11#32, 0x20#32, 0x21#32]) →
    ∃ t t' : State, executeCommand w s = .next t ∧ executeCommand w s' = .next t' ∧ SameOutcome t t'

/-- 10_state.md section 4 (ADATA and PDATA): bits at and above the length are stored, and no result depends on them. -/
def Obligations.BitsAboveTheLengthAreIgnored : Prop :=
  ∀ (w : Word) (s : State) (a0 a1 p0 p1 : Word),
    (∀ i < s.alen.toNat, dataBit [a0, a1] i = dataBit (adataWords s) i) →
    (∀ i < s.plen.toNat, dataBit [p0, p1] i = dataBit (pdataWords s) i) →
    ∃ t t' : State, executeCommand w s = .next t ∧
      executeCommand w { s with adata0 := a0, adata1 := a1, pdata0 := p0, pdata1 := p1 } = .next t' ∧
      SameOutcome t t' ∧ t'.adata0 = a0 ∧ t'.adata1 = a1 ∧ t'.pdata0 = p0 ∧ t'.pdata1 = p1

/-- 20_memory.md section 4 (atomicity): repeating a command leaves the same state again. -/
def Obligations.RepeatingACommandChangesNothing : Prop :=
  ∀ (w : Word) (s : State), ∃ t : State, executeCommand w s = .next t ∧ executeCommand w t = .next t

/-! ### Encoding -/

/-- R51: a word decodes to a command exactly when it is that command's word; and the seven words. -/
def Obligations.DecodeIsEqualityOfTheWord : Prop :=
  (∀ (w : Word) (i : Instr), decode w = .ok i ↔ w = encode i) ∧
  [Instr.parEnc, .parVer, .hamEnc, .hamDec, .crcRem, .crcEnc, .crcVer].map encode =
    [0x00000010#32, 0x00000011#32, 0x00000020#32, 0x00000021#32, 0x00000030#32, 0x00000031#32, 0x00000032#32]

/-- R52, by the fields of R50: the words that are no command. -/
def Obligations.IllegalWordsByTheirFields : Prop :=
  ∀ w : Word, (decode w).toOption = none ↔
    (w.toNat / 256 ≠ 0 ∨ (w.toNat / 16 % 16 ≠ 1 ∧ w.toNat / 16 % 16 ≠ 2 ∧ w.toNat / 16 % 16 ≠ 3) ∨
      (w.toNat / 16 % 16 = 1 ∧ 2 ≤ w.toNat % 16) ∨ (w.toNat / 16 % 16 = 2 ∧ 2 ≤ w.toNat % 16) ∨
      (w.toNat / 16 % 16 = 3 ∧ 3 ≤ w.toNat % 16))

/-- R51: the seven words, written out. -/
def Obligations.SevenWordsDecode : Prop :=
  decodeTableWord 32 0b00010000 = some .parEnc ∧ decodeTableWord 32 0b00010001 = some .parVer ∧
  decodeTableWord 32 0b00100000 = some .hamEnc ∧ decodeTableWord 32 0b00100001 = some .hamDec ∧
  decodeTableWord 32 0b00110000 = some .crcRem ∧ decodeTableWord 32 0b00110001 = some .crcEnc ∧
  decodeTableWord 32 0b00110010 = some .crcVer ∧ decodeTableWord 32 0 = none ∧ decodeTableWord 32 0b00110011 = none

/-- 30_encoding.md section 5 (step 1 of `Execute`): the step that takes a `RegWrite(CMD, w)` whose word decodes to `i`
is exec of `i`. The MODEL'S CHOICE: the transaction is taken off the host's list (log entry 1), and `withFetchWord`
places it there (log entry 3). -/
def Obligations.StepRunsTheDecodedCommand : Prop :=
  (∀ (s : State) (w : Word) (i : Instr) (rest : List HostAction),
    s.pending = .regWrite 0 w :: rest → decode w = .ok i → step s = exec i { s with pending := rest }) ∧
  ∀ (s : State) (i : Instr), step (s.withFetchWord 32 (encode i).toNat) = exec i s

/-! ### The port -/

/-- 20_memory.md section 2: what `RegRead` returns, register by register, and that it changes no register. The MODEL'S
CHOICE: the transaction is taken off the host's list (log entry 1), and the word is appended to `received` (log
entry 2). -/
def Obligations.RegReadReturnsTheRegister : Prop :=
  ∀ (s : State) (idx : RegNum) (rest : List HostAction), s.pending = .regRead idx :: rest →
    ∃ w : Word, step s = .next { s with pending := rest, received := s.received ++ [w] } ∧
      w.toNat =
        (if idx = 1 then s.err.toNat + 8 * s.v.toNat + 16 * s.c.toNat + 32 * s.epos.toNat
         else if idx = 2 then s.alen.toNat
         else if idx = 3 then s.plen.toNat
         else if idx = 4 then s.rlen.toNat
         else if idx = 8 then s.adata0.toNat
         else if idx = 9 then s.adata1.toNat
         else if idx = 12 then s.pdata0.toNat
         else if idx = 13 then s.pdata1.toNat
         else if idx = 16 then s.rdata0.toNat
         else if idx = 17 then s.rdata1.toNat
         else if idx = 18 then s.rdata2.toNat
         else if idx = 19 then s.rdata3.toNat
         else 0)

/-- 20_memory.md section 2: what `RegWrite` does, register by register: CMD executes, six registers store, the others
ignore it. The MODEL'S CHOICE: the transaction is taken off the host's list (log entry 1). -/
def Obligations.RegWriteStoresIntoTheRegister : Prop :=
  ∀ (s : State) (idx : RegNum) (v : Word) (rest : List HostAction), s.pending = .regWrite idx v :: rest →
    step s =
      (if idx = 0 then executeCommand v { s with pending := rest }
       else .next { s with
         pending := rest
         alen := if idx = 2 then v.extractLsb' 0 6 else s.alen
         plen := if idx = 3 then v.extractLsb' 0 6 else s.plen
         adata0 := if idx = 8 then v else s.adata0
         adata1 := if idx = 9 then v else s.adata1
         pdata0 := if idx = 12 then v else s.pdata0
         pdata1 := if idx = 13 then v else s.pdata1 })

/-- 20_memory.md section 1: a reserved number reads 0 and ignores writes; neither touches STATUS or any register. The
MODEL'S CHOICE: the word read is appended to `received` (log entry 2). -/
def Obligations.ReservedNumbersHoldNothing : Prop :=
  ∀ (s : State) (idx : RegNum) (v : Word),
    (idx.toNat ∈ [5, 6, 7, 10, 11, 14, 15] ∨ 20 ≤ idx.toNat) →
    perform (.regRead idx) s = .next { s with received := s.received ++ [0] } ∧ perform (.regWrite idx v) s = .next s

/-- 10_state.md section 4 (lengths): ALEN and PLEN store the value modulo 64 and read it back, and no other register
changes. The MODEL'S CHOICE: the word read is appended to `received` (log entry 2). -/
def Obligations.LengthsAreStoredModulo64 : Prop :=
  ∀ (s : State) (v : Word),
    (∃ t : State, performAll [.regWrite 2 v, .regRead 2] s = .next t ∧ t.alen.toNat = v.toNat % 64 ∧
      t = { s with alen := t.alen, received := s.received ++ [BitVec.ofNat 32 (v.toNat % 64)] }) ∧
    (∃ t : State, performAll [.regWrite 3 v, .regRead 3] s = .next t ∧ t.plen.toNat = v.toNat % 64 ∧
      t = { s with plen := t.plen, received := s.received ++ [BitVec.ofNat 32 (v.toNat % 64)] })

/-- 20_memory.md section 5 (c): a read issued after a command sees that command's complete outcome. The MODEL'S CHOICE:
both transactions are taken off the host's list (log entry 1), and the word is appended to `received` (log
entry 2). -/
def Obligations.ReadAfterCommandSeesItsOutcome : Prop :=
  ∀ (s : State) (w : Word) (idx : RegNum) (rest : List HostAction),
    s.pending = .regWrite 0 w :: .regRead idx :: rest →
    ∃ t : State, executeCommand w { s with pending := rest } = .next t ∧
      Sys2Proof.core.run 2 s = .next { t with received := s.received ++ [readRegister idx t] }

/-- R57 with R34: `lda` and `ldp` load the BitString, from any state, and touch nothing else. -/
def Obligations.LoadLinesLoadTheBitString : Prop :=
  ∀ (s : State) (a : BitString), a.length ≤ 63 →
    (∃ t : State, performAll (lineActions (.lda a) s) s = .next t ∧ operandA t = a ∧
      t = { s with alen := t.alen, adata0 := t.adata0, adata1 := t.adata1 }) ∧
    (∃ t : State, performAll (lineActions (.ldp a) s) s = .next t ∧ operandP t = a ∧
      t = { s with plen := t.plen, pdata0 := t.pdata0, pdata1 := t.pdata1 })

/-- 44_environment.md section 5: from any state, the host program of each software call leaves what the function
returns. -/
def Obligations.CallTransactionsComputeTheFunctions : Prop :=
  ∀ (k : EcsCall) (s : State), CallFits k s →
    ∃ t : State, runLines (ecsProgram k) s = .next t ∧ CallAnswered k t

/-- 20_memory.md section 6 and 70_reset_and_hazards.md section 1: what one clock cycle carries. The MODEL'S CHOICE: a
cycle is read as one host action, idle where no transaction happens (log entry 5). -/
def Obligations.PortCycleCarriesOneAction : Prop :=
  ∀ p : PortCycle,
    (p.rst = true → portAction p = .reset) ∧
    (p.rst = false → p.sel = true → p.ready = true → p.wr = true → portAction p = .regWrite p.addr p.wdata) ∧
    (p.rst = false → p.sel = true → p.ready = true → p.wr = false → portAction p = .regRead p.addr ∧
      ∀ s : State, portRdata p s = some (readRegister p.addr s)) ∧
    (p.rst = false → p.sel = false ∨ p.ready = false → ∀ s : State, perform (portAction p) s = .next s)

/-! ### Reset and the whole machine -/

/-- R23: the reset state as the host reads it. -/
def Obligations.ResetValues : Prop :=
  (∀ idx : RegNum, readRegister idx State.reset = if idx = 3 then 4 else if idx = 12 then 0x0000000D else 0) ∧
  HoldsStatus 0 false false 0 State.reset ∧ operandA State.reset = [] ∧
  operandP State.reset = [true, false, true, true] ∧ HoldsResult [] State.reset

/-- 70_reset_and_hazards.md section 1: reset maps every state to the reset state; the host's two lists, which are the
model's own (log entries 1 and 2), stay. -/
def Obligations.ResetFromEveryState : Prop :=
  ∀ (s : State) (rest : List HostAction), s.pending = .reset :: rest →
    step s = .next { State.reset with pending := rest, received := s.received }

/-- 20_memory.md section 5 (d), with log entry 1: where the host issues nothing the state does not move. -/
def Obligations.IdleHoldsTheState : Prop :=
  (∀ s : State, s.pending = [] → step s = .next s) ∧
  ∀ (s : State) (rest : List HostAction), s.pending = .idle :: rest → step s = .next { s with pending := rest }

/-- 60_exceptions.md section 7: every step has a successor state: no stop, no stuck state. -/
def Obligations.EveryStepCompletes : Prop := ∀ s : State, ∃ t : State, step s = .next t

/-- 10_state.md section 8: every step keeps the invariants of R24. -/
def Obligations.EveryStepKeepsTheInvariants : Prop :=
  ∀ s t : State, Inv s → step s = .next t → Inv t

/-- 10_state.md section 8: a command establishes the invariants from any state, reachable or not. -/
def Obligations.EveryCommandEstablishesTheInvariants : Prop :=
  ∀ (w : Word) (s : State), ∃ t : State, executeCommand w s = .next t ∧ Inv t

/-- 10_state.md section 8: the reset state meets the invariants of R24. -/
def Obligations.ResetMeetsTheInvariants : Prop := Inv State.reset

/-- R24: in every state that any sequence of transactions (and resets) reaches from reset. -/
def Obligations.ReachableStatesMeetTheInvariants : Prop :=
  ∀ acts : List HostAction, ∃ t : State, performAll acts State.reset = .next t ∧ Inv t
end

