-- ==== Sys2Proof/Laws/Bits.lean ====
section
/-! SUPPORT. What the BitString operations do: packing into words and reading back (R11, R34), and lengths. -/

namespace Sys2Proof.Machine

theorem bitAt_eq_getElem (s : BitString) (i : Nat) (h : i < s.length) : bitAt s i = s[i] := by
  simp [bitAt, h]

theorem bitAt_of_length_le (s : BitString) (i : Nat) (h : s.length ≤ i) : bitAt s i = false := by
  simp [bitAt, h]

@[simp] theorem bitAt_nil (i : Nat) : bitAt [] i = false := rfl

@[simp] theorem bitAt_cons_zero (b : Bool) (s : BitString) : bitAt (b :: s) 0 = b := rfl

@[simp] theorem bitAt_cons_succ (b : Bool) (s : BitString) (i : Nat) : bitAt (b :: s) (i + 1) = bitAt s i := rfl

theorem bitString_ext {s t : BitString} (hl : s.length = t.length) (h : ∀ i < s.length, bitAt s i = bitAt t i) :
    s = t := by
  refine List.ext_getElem hl fun i h₁ h₂ => ?_
  rw [← bitAt_eq_getElem s i h₁, ← bitAt_eq_getElem t i h₂, h i h₁]

@[simp] theorem length_zeros (n : Nat) : (zeros n).length = n := by simp [zeros]

@[simp] theorem length_flip (s : BitString) (i : Nat) : (flip s i).length = s.length := by simp [flip]

@[simp] theorem length_flipAll (s : BitString) (is : List Nat) : (flipAll s is).length = s.length := by
  induction is generalizing s with
  | nil => rfl
  | cons i is ih => simpa [flipAll] using ih (flip s i)

/-- Bit `b` of the packed number is the bit at index `b` (R34). -/
theorem testBit_packBits (s : BitString) (b : Nat) : (packBits s).testBit b = bitAt s b := by
  induction s generalizing b with
  | nil => simp [packBits]
  | cons a s ih =>
    cases b with
    | zero => cases a <;> simp [packBits, Nat.testBit_zero]
    | succ b =>
      have : (a.toNat + 2 * packBits s) / 2 = packBits s := by cases a <;> (simp; try omega)
      simp [packBits, Nat.testBit_succ, this, ih]

/-- Bit `b` of `pack(s, w)` is `s[32·w + b]`, or 0 past the end (R34, 00_scope.md section 6.2). -/
theorem getLsbD_pack (s : BitString) (w b : Nat) (hb : b < 32) : (pack s w).getLsbD b = bitAt s (32 * w + b) := by
  rw [pack, BitVec.getLsbD_ofNat, testBit_packBits]
  simp [hb, bitAt, slice]

@[simp] theorem length_unpack (n : Nat) (ws : List Word) : (unpack n ws).length = n := by simp [unpack]

theorem bitAt_unpack (n : Nat) (ws : List Word) (i : Nat) (h : i < n) : bitAt (unpack n ws) i = dataBit ws i := by
  simp [bitAt, unpack, h]

/-- The image of a BitString in four words holds its bits, and 0 above them (R16, R34). -/
theorem dataBit_packed (s : BitString) (i : Nat) (h : i < 128) :
    dataBit [pack s 0, pack s 1, pack s 2, pack s 3] i = bitAt s i := by
  have hw : [pack s 0, pack s 1, pack s 2, pack s 3].getD (i / 32) 0 = pack s (i / 32) := by
    have : i / 32 = 0 ∨ i / 32 = 1 ∨ i / 32 = 2 ∨ i / 32 = 3 := by omega
    rcases this with h | h | h | h <;> rw [h] <;> rfl
  rw [dataBit, hw, getLsbD_pack _ _ _ (Nat.mod_lt _ (by decide)), Nat.div_add_mod]

/-- A BitString of at most 128 bits is read back from its image (R11, R16). -/
theorem unpack_packed (s : BitString) (h : s.length ≤ 128) :
    unpack s.length [pack s 0, pack s 1, pack s 2, pack s 3] = s := by
  refine bitString_ext (by simp) fun i hi => ?_
  have hi' : i < s.length := by simpa using hi
  rw [bitAt_unpack _ _ _ hi', dataBit_packed _ _ (by omega)]

@[simp] theorem length_operandA (s : State) : (operandA s).length = s.alen.toNat := by simp [operandA]

@[simp] theorem length_operandP (s : State) : (operandP s).length = s.plen.toNat := by simp [operandP]

@[simp] theorem length_resultR (s : State) : (resultR s).length = s.rlen.toNat := by simp [resultR]

/-- A has at most 63 bits (R7). -/
theorem length_operandA_le (s : State) : (operandA s).length ≤ 63 := by
  have := s.alen.isLt; simp; omega

/-- P has at most 63 bits (R7). -/
theorem length_operandP_le (s : State) : (operandP s).length ≤ 63 := by
  have := s.plen.isLt; simp; omega

end Sys2Proof.Machine
end

