-- ==== Sys2Proof/Laws/Crc.lean ====
section
/-! SUPPORT. The CRC scan: lengths, and the same scan as a recursion that drops one leading bit a position. -/

namespace Sys2Proof.Machine

@[simp] theorem length_xorFront (s g : BitString) : (xorFront s g).length = s.length := by
  induction s generalizing g with
  | nil => cases g <;> rfl
  | cons a s ih => cases g <;> simp [xorFront, ih]

@[simp] theorem length_xorWindow (w : BitString) (i : Nat) (g : BitString) : (xorWindow w i g).length = w.length := by
  simp [xorWindow]; omega

@[simp] theorem length_crcScanStep (g w : BitString) (i : Nat) : (crcScanStep g w i).length = w.length := by
  unfold crcScanStep; split <;> simp

@[simp] theorem crcScan_zero (g w : BitString) : crcScan g 0 w = w := rfl

theorem crcScan_succ (g : BitString) (n : Nat) (w : BitString) :
    crcScan g (n + 1) w = crcScanStep g (crcScan g n w) n := by
  simp [crcScan, List.range_succ]

@[simp] theorem length_crcScan (g : BitString) (n : Nat) (w : BitString) : (crcScan g n w).length = w.length := by
  induction n with
  | zero => rfl
  | succ n ih => simp [crcScan_succ, ih]

/-- The same scan, dropping the leading bit after each position. -/
def crcDivide (g : BitString) : Nat → BitString → BitString
  | 0, w => w
  | _ + 1, [] => []
  | n + 1, b :: w => crcDivide g n (if b then xorFront w g.tail else w)

/-- Scanning a buffer whose first position is out of the way scans the rest. -/
theorem crcScan_step_cons (g : BitString) (b : Bool) (w : BitString) (i : Nat) :
    crcScanStep g (b :: w) (i + 1) = b :: crcScanStep g w i := by
  by_cases h : bitAt w i <;> simp [crcScanStep, h, xorWindow]

theorem crcScan_cons (g : BitString) (n : Nat) (b : Bool) (w : BitString) :
    ∃ b', crcScan g (n + 1) (b :: w) = b' :: crcScan g n (if b then xorFront w g.tail else w) := by
  induction n with
  | zero =>
    cases b <;> cases g <;> simp [crcScan, List.range_succ, crcScanStep, xorWindow, xorFront]
  | succ n ih =>
    obtain ⟨b', ih⟩ := ih
    exact ⟨b', by rw [crcScan_succ, ih, crcScan_step_cons, ← crcScan_succ]⟩

/-- After `n` positions, what stands from index `n` on is what the recursion leaves (R82). -/
theorem drop_crcScan (g : BitString) (n : Nat) (w : BitString) (h : n ≤ w.length) :
    (crcScan g n w).drop n = crcDivide g n w := by
  induction n generalizing w with
  | zero => rfl
  | succ n ih =>
    cases w with
    | nil => simp at h
    | cons b w =>
      obtain ⟨b', e⟩ := crcScan_cons g n b w
      have hl : n ≤ (if b then xorFront w g.tail else w).length := by
        simp at h; split <;> simp [h]
      rw [e, List.drop_succ_cons, ih _ hl, crcDivide]

/-- The remainder by the recursion (R82). -/
theorem crcRemainder_eq_divide (m g : BitString) :
    crcRemainder m g = crcDivide g m.length (m ++ zeros (degree g)) := by
  rw [crcRemainder, slice, drop_crcScan _ _ _ (by simp), List.take_of_length_le]
  rw [← drop_crcScan _ _ _ (by simp)]; simp

end Sys2Proof.Machine
end

