-- ==== Sys2Proof/Laws/State.lean ====
section
/-! SUPPORT. One lemma per field per update of the state, each true by rfl, so that no later proof unfolds a
record update. -/

namespace Sys2Proof.Machine

/-! ### writeResult -/

@[simp] theorem writeResult_err (r : BitString) (s : State) : (writeResult r s).err = s.err := rfl
@[simp] theorem writeResult_v (r : BitString) (s : State) : (writeResult r s).v = s.v := rfl
@[simp] theorem writeResult_c (r : BitString) (s : State) : (writeResult r s).c = s.c := rfl
@[simp] theorem writeResult_epos (r : BitString) (s : State) : (writeResult r s).epos = s.epos := rfl
@[simp] theorem writeResult_alen (r : BitString) (s : State) : (writeResult r s).alen = s.alen := rfl
@[simp] theorem writeResult_plen (r : BitString) (s : State) : (writeResult r s).plen = s.plen := rfl
@[simp] theorem writeResult_rlen (r : BitString) (s : State) : (writeResult r s).rlen = BitVec.ofNat 7 r.length := rfl
@[simp] theorem writeResult_adata0 (r : BitString) (s : State) : (writeResult r s).adata0 = s.adata0 := rfl
@[simp] theorem writeResult_adata1 (r : BitString) (s : State) : (writeResult r s).adata1 = s.adata1 := rfl
@[simp] theorem writeResult_pdata0 (r : BitString) (s : State) : (writeResult r s).pdata0 = s.pdata0 := rfl
@[simp] theorem writeResult_pdata1 (r : BitString) (s : State) : (writeResult r s).pdata1 = s.pdata1 := rfl
@[simp] theorem writeResult_rdata0 (r : BitString) (s : State) : (writeResult r s).rdata0 = pack r 0 := rfl
@[simp] theorem writeResult_rdata1 (r : BitString) (s : State) : (writeResult r s).rdata1 = pack r 1 := rfl
@[simp] theorem writeResult_rdata2 (r : BitString) (s : State) : (writeResult r s).rdata2 = pack r 2 := rfl
@[simp] theorem writeResult_rdata3 (r : BitString) (s : State) : (writeResult r s).rdata3 = pack r 3 := rfl
@[simp] theorem writeResult_pending (r : BitString) (s : State) : (writeResult r s).pending = s.pending := rfl
@[simp] theorem writeResult_received (r : BitString) (s : State) : (writeResult r s).received = s.received := rfl

/-! ### writeStatus -/

@[simp] theorem writeStatus_err (e : BitVec 3) (v c : Bool) (p : BitVec 3) (s : State) : (writeStatus e v c p s).err = e := rfl
@[simp] theorem writeStatus_v (e : BitVec 3) (v c : Bool) (p : BitVec 3) (s : State) : (writeStatus e v c p s).v = v := rfl
@[simp] theorem writeStatus_c (e : BitVec 3) (v c : Bool) (p : BitVec 3) (s : State) : (writeStatus e v c p s).c = c := rfl
@[simp] theorem writeStatus_epos (e : BitVec 3) (v c : Bool) (p : BitVec 3) (s : State) : (writeStatus e v c p s).epos = p := rfl
@[simp] theorem writeStatus_alen (e : BitVec 3) (v c : Bool) (p : BitVec 3) (s : State) : (writeStatus e v c p s).alen = s.alen := rfl
@[simp] theorem writeStatus_plen (e : BitVec 3) (v c : Bool) (p : BitVec 3) (s : State) : (writeStatus e v c p s).plen = s.plen := rfl
@[simp] theorem writeStatus_rlen (e : BitVec 3) (v c : Bool) (p : BitVec 3) (s : State) : (writeStatus e v c p s).rlen = s.rlen := rfl
@[simp] theorem writeStatus_adata0 (e : BitVec 3) (v c : Bool) (p : BitVec 3) (s : State) : (writeStatus e v c p s).adata0 = s.adata0 := rfl
@[simp] theorem writeStatus_adata1 (e : BitVec 3) (v c : Bool) (p : BitVec 3) (s : State) : (writeStatus e v c p s).adata1 = s.adata1 := rfl
@[simp] theorem writeStatus_pdata0 (e : BitVec 3) (v c : Bool) (p : BitVec 3) (s : State) : (writeStatus e v c p s).pdata0 = s.pdata0 := rfl
@[simp] theorem writeStatus_pdata1 (e : BitVec 3) (v c : Bool) (p : BitVec 3) (s : State) : (writeStatus e v c p s).pdata1 = s.pdata1 := rfl
@[simp] theorem writeStatus_rdata0 (e : BitVec 3) (v c : Bool) (p : BitVec 3) (s : State) : (writeStatus e v c p s).rdata0 = s.rdata0 := rfl
@[simp] theorem writeStatus_rdata1 (e : BitVec 3) (v c : Bool) (p : BitVec 3) (s : State) : (writeStatus e v c p s).rdata1 = s.rdata1 := rfl
@[simp] theorem writeStatus_rdata2 (e : BitVec 3) (v c : Bool) (p : BitVec 3) (s : State) : (writeStatus e v c p s).rdata2 = s.rdata2 := rfl
@[simp] theorem writeStatus_rdata3 (e : BitVec 3) (v c : Bool) (p : BitVec 3) (s : State) : (writeStatus e v c p s).rdata3 = s.rdata3 := rfl
@[simp] theorem writeStatus_pending (e : BitVec 3) (v c : Bool) (p : BitVec 3) (s : State) : (writeStatus e v c p s).pending = s.pending := rfl
@[simp] theorem writeStatus_received (e : BitVec 3) (v c : Bool) (p : BitVec 3) (s : State) : (writeStatus e v c p s).received = s.received := rfl

/-! ### raiseError -/

@[simp] theorem raiseError_err (x : ErrorCause) (s : State) : (raiseError x s).err = errorCode x := rfl
@[simp] theorem raiseError_v (x : ErrorCause) (s : State) : (raiseError x s).v = false := rfl
@[simp] theorem raiseError_c (x : ErrorCause) (s : State) : (raiseError x s).c = false := rfl
@[simp] theorem raiseError_epos (x : ErrorCause) (s : State) : (raiseError x s).epos = 0 := rfl
@[simp] theorem raiseError_alen (x : ErrorCause) (s : State) : (raiseError x s).alen = s.alen := rfl
@[simp] theorem raiseError_plen (x : ErrorCause) (s : State) : (raiseError x s).plen = s.plen := rfl
@[simp] theorem raiseError_rlen (x : ErrorCause) (s : State) : (raiseError x s).rlen = 0 := rfl
@[simp] theorem raiseError_adata0 (x : ErrorCause) (s : State) : (raiseError x s).adata0 = s.adata0 := rfl
@[simp] theorem raiseError_adata1 (x : ErrorCause) (s : State) : (raiseError x s).adata1 = s.adata1 := rfl
@[simp] theorem raiseError_pdata0 (x : ErrorCause) (s : State) : (raiseError x s).pdata0 = s.pdata0 := rfl
@[simp] theorem raiseError_pdata1 (x : ErrorCause) (s : State) : (raiseError x s).pdata1 = s.pdata1 := rfl
@[simp] theorem raiseError_rdata0 (x : ErrorCause) (s : State) : (raiseError x s).rdata0 = 0 := rfl
@[simp] theorem raiseError_rdata1 (x : ErrorCause) (s : State) : (raiseError x s).rdata1 = 0 := rfl
@[simp] theorem raiseError_rdata2 (x : ErrorCause) (s : State) : (raiseError x s).rdata2 = 0 := rfl
@[simp] theorem raiseError_rdata3 (x : ErrorCause) (s : State) : (raiseError x s).rdata3 = 0 := rfl
@[simp] theorem raiseError_pending (x : ErrorCause) (s : State) : (raiseError x s).pending = s.pending := rfl
@[simp] theorem raiseError_received (x : ErrorCause) (s : State) : (raiseError x s).received = s.received := rfl

/-! ### deliver -/

@[simp] theorem deliver_err (w : Word) (s : State) : (deliver w s).err = s.err := rfl
@[simp] theorem deliver_v (w : Word) (s : State) : (deliver w s).v = s.v := rfl
@[simp] theorem deliver_c (w : Word) (s : State) : (deliver w s).c = s.c := rfl
@[simp] theorem deliver_epos (w : Word) (s : State) : (deliver w s).epos = s.epos := rfl
@[simp] theorem deliver_alen (w : Word) (s : State) : (deliver w s).alen = s.alen := rfl
@[simp] theorem deliver_plen (w : Word) (s : State) : (deliver w s).plen = s.plen := rfl
@[simp] theorem deliver_rlen (w : Word) (s : State) : (deliver w s).rlen = s.rlen := rfl
@[simp] theorem deliver_adata0 (w : Word) (s : State) : (deliver w s).adata0 = s.adata0 := rfl
@[simp] theorem deliver_adata1 (w : Word) (s : State) : (deliver w s).adata1 = s.adata1 := rfl
@[simp] theorem deliver_pdata0 (w : Word) (s : State) : (deliver w s).pdata0 = s.pdata0 := rfl
@[simp] theorem deliver_pdata1 (w : Word) (s : State) : (deliver w s).pdata1 = s.pdata1 := rfl
@[simp] theorem deliver_rdata0 (w : Word) (s : State) : (deliver w s).rdata0 = s.rdata0 := rfl
@[simp] theorem deliver_rdata1 (w : Word) (s : State) : (deliver w s).rdata1 = s.rdata1 := rfl
@[simp] theorem deliver_rdata2 (w : Word) (s : State) : (deliver w s).rdata2 = s.rdata2 := rfl
@[simp] theorem deliver_rdata3 (w : Word) (s : State) : (deliver w s).rdata3 = s.rdata3 := rfl
@[simp] theorem deliver_pending (w : Word) (s : State) : (deliver w s).pending = s.pending := rfl
@[simp] theorem deliver_received (w : Word) (s : State) : (deliver w s).received = s.received ++ [w] := rfl

/-! ### takeAction -/

@[simp] theorem takeAction_err (s : State) : (takeAction s).err = s.err := rfl
@[simp] theorem takeAction_v (s : State) : (takeAction s).v = s.v := rfl
@[simp] theorem takeAction_c (s : State) : (takeAction s).c = s.c := rfl
@[simp] theorem takeAction_epos (s : State) : (takeAction s).epos = s.epos := rfl
@[simp] theorem takeAction_alen (s : State) : (takeAction s).alen = s.alen := rfl
@[simp] theorem takeAction_plen (s : State) : (takeAction s).plen = s.plen := rfl
@[simp] theorem takeAction_rlen (s : State) : (takeAction s).rlen = s.rlen := rfl
@[simp] theorem takeAction_adata0 (s : State) : (takeAction s).adata0 = s.adata0 := rfl
@[simp] theorem takeAction_adata1 (s : State) : (takeAction s).adata1 = s.adata1 := rfl
@[simp] theorem takeAction_pdata0 (s : State) : (takeAction s).pdata0 = s.pdata0 := rfl
@[simp] theorem takeAction_pdata1 (s : State) : (takeAction s).pdata1 = s.pdata1 := rfl
@[simp] theorem takeAction_rdata0 (s : State) : (takeAction s).rdata0 = s.rdata0 := rfl
@[simp] theorem takeAction_rdata1 (s : State) : (takeAction s).rdata1 = s.rdata1 := rfl
@[simp] theorem takeAction_rdata2 (s : State) : (takeAction s).rdata2 = s.rdata2 := rfl
@[simp] theorem takeAction_rdata3 (s : State) : (takeAction s).rdata3 = s.rdata3 := rfl
@[simp] theorem takeAction_pending (s : State) : (takeAction s).pending = s.pending.tail := rfl
@[simp] theorem takeAction_received (s : State) : (takeAction s).received = s.received := rfl

/-! ### resetBlock -/

@[simp] theorem resetBlock_err (s : State) : (resetBlock s).err = 0 := rfl
@[simp] theorem resetBlock_v (s : State) : (resetBlock s).v = false := rfl
@[simp] theorem resetBlock_c (s : State) : (resetBlock s).c = false := rfl
@[simp] theorem resetBlock_epos (s : State) : (resetBlock s).epos = 0 := rfl
@[simp] theorem resetBlock_alen (s : State) : (resetBlock s).alen = 0 := rfl
@[simp] theorem resetBlock_plen (s : State) : (resetBlock s).plen = 4 := rfl
@[simp] theorem resetBlock_rlen (s : State) : (resetBlock s).rlen = 0 := rfl
@[simp] theorem resetBlock_adata0 (s : State) : (resetBlock s).adata0 = 0 := rfl
@[simp] theorem resetBlock_adata1 (s : State) : (resetBlock s).adata1 = 0 := rfl
@[simp] theorem resetBlock_pdata0 (s : State) : (resetBlock s).pdata0 = 0x0000000D#32 := rfl
@[simp] theorem resetBlock_pdata1 (s : State) : (resetBlock s).pdata1 = 0 := rfl
@[simp] theorem resetBlock_rdata0 (s : State) : (resetBlock s).rdata0 = 0 := rfl
@[simp] theorem resetBlock_rdata1 (s : State) : (resetBlock s).rdata1 = 0 := rfl
@[simp] theorem resetBlock_rdata2 (s : State) : (resetBlock s).rdata2 = 0 := rfl
@[simp] theorem resetBlock_rdata3 (s : State) : (resetBlock s).rdata3 = 0 := rfl
@[simp] theorem resetBlock_pending (s : State) : (resetBlock s).pending = s.pending := rfl
@[simp] theorem resetBlock_received (s : State) : (resetBlock s).received = s.received := rfl

/-! ### commit and withFetchWord -/

@[simp] theorem commit_err (x : ErrorCause) (s : State) : commit (.err x) s = raiseError x s := rfl

@[simp] theorem commit_ok (r : BitString) (v c : Bool) (p : BitVec 3) (s : State) :
    commit (.ok r v c p) s = writeStatus 0 v c p (writeResult r s) := rfl

@[simp] theorem commit_alen (o : CmdOutcome) (s : State) : (commit o s).alen = s.alen := by cases o <;> rfl
@[simp] theorem commit_plen (o : CmdOutcome) (s : State) : (commit o s).plen = s.plen := by cases o <;> rfl
@[simp] theorem commit_adata0 (o : CmdOutcome) (s : State) : (commit o s).adata0 = s.adata0 := by cases o <;> rfl
@[simp] theorem commit_adata1 (o : CmdOutcome) (s : State) : (commit o s).adata1 = s.adata1 := by cases o <;> rfl
@[simp] theorem commit_pdata0 (o : CmdOutcome) (s : State) : (commit o s).pdata0 = s.pdata0 := by cases o <;> rfl
@[simp] theorem commit_pdata1 (o : CmdOutcome) (s : State) : (commit o s).pdata1 = s.pdata1 := by cases o <;> rfl
@[simp] theorem commit_pending (o : CmdOutcome) (s : State) : (commit o s).pending = s.pending := by cases o <;> rfl
@[simp] theorem commit_received (o : CmdOutcome) (s : State) : (commit o s).received = s.received := by cases o <;> rfl

end Sys2Proof.Machine
end

