-- ==== Sys2Proof/Laws/Ops.lean ====
section
/-! SUPPORT. What each shared operation does, once: writing a result, raising an error, committing an outcome, a
command, and one action of the host. -/

namespace Sys2Proof.Machine

/-- `R <- r` for a BitString that R can hold (R16). -/
theorem writeResult_holds (r : BitString) (s : State) (h : r.length ≤ Config.rmax) :
    HoldsResult r (writeResult r s) := by
  have h' : r.length ≤ 125 := h
  have hl : (BitVec.ofNat 7 r.length).toNat = r.length := by simp; omega
  refine ⟨by simpa using hl, ?_, fun i hi hr => ?_⟩
  · simp only [resultR, rdataWords, writeResult, hl]
    exact unpack_packed r (by omega)
  · simp only [rdataWords, writeResult]
    rw [dataBit_packed _ _ hi, bitAt_of_length_le _ _ hr]

/-- Writing STATUS does not disturb the result. -/
theorem HoldsResult.writeStatus {r : BitString} {s : State} (h : HoldsResult r s) (e : BitVec 3) (v c : Bool)
    (p : BitVec 3) : HoldsResult r (writeStatus e v c p s) := ⟨h.rlen, h.result, h.tail⟩

theorem writeStatus_holds (e : BitVec 3) (v c : Bool) (p : BitVec 3) (s : State) :
    HoldsStatus e v c p (writeStatus e v c p s) := ⟨rfl, rfl, rfl, rfl⟩

/-- No command changes an operand (R56, step 3). -/
theorem commit_keeps (o : CmdOutcome) (s : State) : KeepsOperands s (commit o s) := by
  constructor <;> simp

/-- The error outcome (R112). -/
theorem raiseError_outcome (x : ErrorCause) (s : State) : ErrorOutcome (errorCode x) s (raiseError x s) :=
  ⟨(writeResult_holds [] s (by decide)).writeStatus .., writeStatus_holds .., commit_keeps (.err x) s⟩

/-- A successful outcome that R can hold (R56, step 2). -/
theorem commit_ok_holds (r : BitString) (v c : Bool) (p : BitVec 3) (s : State) (h : r.length ≤ Config.rmax) :
    HoldsResult r (commit (.ok r v c p) s) ∧ HoldsStatus 0 v c p (commit (.ok r v c p) s) :=
  ⟨(writeResult_holds r s h).writeStatus .., writeStatus_holds ..⟩

/-- The outcome of a command on the BitStrings A and P: all that a command depends on (R56). -/
def outcomeOf (i : Instr) (a p : BitString) : CmdOutcome :=
  match i with
  | .parEnc => parEncOutcome a
  | .parVer => parVerOutcome a
  | .hamEnc => hamEncOutcome a
  | .hamDec => hamDecOutcome a
  | .crcRem => crcRemOutcome a p
  | .crcEnc => crcEncOutcome a p
  | .crcVer => crcVerOutcome a p

/-- Every command commits its outcome: all that exec can do. -/
theorem exec_eq_commit (i : Instr) (s : State) :
    exec i s = .next (commit (outcomeOf i (operandA s) (operandP s)) s) := by cases i <;> rfl

/-- Two outcomes committed to any two states give the same R, RLEN and STATUS when they are equal. -/
theorem commit_sameOutcome (o : CmdOutcome) (s s' : State) : SameOutcome (commit o s) (commit o s') := by
  cases o <;> exact ⟨rfl, rfl, rfl, rfl, rfl, rfl⟩

/-- The host's next action is the head of its list. -/
theorem step_of_pending (s : State) (a : HostAction) (rest : List HostAction) (h : s.pending = a :: rest) :
    step s = perform a { s with pending := rest } := by
  simp [step, nextAction, takeAction, h]

end Sys2Proof.Machine
end

