-- ==== Sys2Proof/Laws/PerInstr.lean ====
section
/-! SUPPORT. The family Encoding: of each command as syntax, that it is well formed, that its word has the field
ZERO and the unit and operation R51 gives it, and that decoding the word gives the command. -/

/-- What holds of the encoding of a command (R50, R51, R53). -/
def Sys2Proof.Laws.Encoding.Statement (i : Sys2Proof.Instr) : Prop :=
  i.wellFormed = true ∧ Sys2Proof.zeroField (Sys2Proof.encode i) = 0 ∧
    Sys2Proof.unitField (Sys2Proof.encode i) = i.unit ∧ Sys2Proof.funcField (Sys2Proof.encode i) = i.func ∧
    (Sys2Proof.decode (Sys2Proof.encode i)).toOption = some i

theorem Sys2Proof.Laws.Encoding.parEnc : Sys2Proof.Laws.Encoding.Statement .parEnc := ⟨rfl, rfl, rfl, rfl, rfl⟩

theorem Sys2Proof.Laws.Encoding.parVer : Sys2Proof.Laws.Encoding.Statement .parVer := ⟨rfl, rfl, rfl, rfl, rfl⟩

theorem Sys2Proof.Laws.Encoding.hamEnc : Sys2Proof.Laws.Encoding.Statement .hamEnc := ⟨rfl, rfl, rfl, rfl, rfl⟩

theorem Sys2Proof.Laws.Encoding.hamDec : Sys2Proof.Laws.Encoding.Statement .hamDec := ⟨rfl, rfl, rfl, rfl, rfl⟩

theorem Sys2Proof.Laws.Encoding.crcRem : Sys2Proof.Laws.Encoding.Statement .crcRem := ⟨rfl, rfl, rfl, rfl, rfl⟩

theorem Sys2Proof.Laws.Encoding.crcEnc : Sys2Proof.Laws.Encoding.Statement .crcEnc := ⟨rfl, rfl, rfl, rfl, rfl⟩

theorem Sys2Proof.Laws.Encoding.crcVer : Sys2Proof.Laws.Encoding.Statement .crcVer := ⟨rfl, rfl, rfl, rfl, rfl⟩
end

