-- ==== Sys2Proof/Tests/Slice0.lean ====
section
/-! SUPPORT. Small tests of the model against the worked examples and vectors of spec/95_test_vectors.md and
spec/96_test_vector_tables.md, and one witness for the hypotheses of each statement. -/

namespace Sys2Proof.Tests

open Sys2Proof Sys2Proof.Machine Sys2Proof.Claims

/-! ### Helpers -/

/-- The reset state with an operand loaded. -/
def loadedA (len : Nat) (w0 w1 : Word) : State :=
  { State.reset with alen := BitVec.ofNat 6 len, adata0 := w0, adata1 := w1 }

/-- The state with a generator loaded. -/
def withP (len : Nat) (w0 w1 : Word) (s : State) : State :=
  { s with plen := BitVec.ofNat 6 len, pdata0 := w0, pdata1 := w1 }

/-- The next state, where there is one. -/
def nextOf (o : Host.Outcome State Fault Refusal) : Option State :=
  match o with
  | .next t => some t
  | _ => none

/-- STATUS, RLEN and RDATA0 to RDATA3 as numbers. -/
def outcome (o : Host.Outcome State Fault Refusal) : Option (List Nat) :=
  (nextOf o).map fun t => [1, 4, 16, 17, 18, 19].map fun n => (readRegister n t).toNat

/-! ### Well-formedness: an ill-formed term for each check (R57) -/

theorem test_operand_of_64_bits_refused : operandFits (List.replicate 64 true) = false := by decide
theorem test_operand_of_63_bits_fits : operandFits (List.replicate 63 true) = true := by decide
theorem test_generator_of_64_bits_refused : generatorFits (List.replicate 64 true) = false := by decide
theorem test_lda_of_64_bits_refused : lineWellFormed (.lda (List.replicate 64 false)) = false := by decide
theorem test_ldp_of_64_bits_refused : lineWellFormed (.ldp (List.replicate 64 false)) = false := by decide

/-! ### Decoding: words written out from R50 and R51, ZERO 24 bits, UNIT 4 bits, FUNC 4 bits -/

theorem test_decode_par_enc : decodeTableWord 32 0b000000000000000000000000_0001_0000 = some .parEnc := by decide
theorem test_decode_par_ver : decodeTableWord 32 0b000000000000000000000000_0001_0001 = some .parVer := by decide
theorem test_decode_ham_enc : decodeTableWord 32 0b000000000000000000000000_0010_0000 = some .hamEnc := by decide
theorem test_decode_ham_dec : decodeTableWord 32 0b000000000000000000000000_0010_0001 = some .hamDec := by decide
theorem test_decode_crc_rem : decodeTableWord 32 0b000000000000000000000000_0011_0000 = some .crcRem := by decide
theorem test_decode_crc_enc : decodeTableWord 32 0b000000000000000000000000_0011_0001 = some .crcEnc := by decide
theorem test_decode_crc_ver : decodeTableWord 32 0b000000000000000000000000_0011_0010 = some .crcVer := by decide

/-- The illegal words of section 4 of the vectors. -/
theorem test_illegal_words_refused :
    ([0x00, 0x01, 0x12, 0x1F, 0x22, 0x2F, 0x33, 0x3F, 0x40, 0xF0, 0x110, 0x10000010, 0x80000010, 0xFFFFFFFF].map
      (decodeTableWord 32)).all Option.isNone = true := by decide

theorem test_illegal_reasons :
    [0x110, 0x40, 0x33].map illegalReason = [.zeroFieldNotZero, .noSuchUnit, .noSuchFunc] := by decide

/-! ### PAR (vectors 1.2, 1.3) -/

theorem test_par_enc_1010 : outcome (exec .parEnc (loadedA 4 0x5 0)) = some [0, 5, 0x5, 0, 0, 0] := by decide
theorem test_par_enc_63_ones :
    outcome (exec .parEnc (loadedA 63 0xFFFFFFFF 0x7FFFFFFF)) = some [0, 64, 0xFFFFFFFF, 0xFFFFFFFF, 0, 0] := by
  decide +kernel
theorem test_par_ver_two_flips_missed : outcome (exec .parVer (loadedA 5 0x6 0)) = some [8, 0, 0, 0, 0, 0] := by decide
theorem test_par_ver_one_flip_detected : outcome (exec .parVer (loadedA 5 0x4 0)) = some [0, 0, 0, 0, 0, 0] := by decide

/-! ### HAM (vectors 2.1, 2.5, 2.6) -/

theorem test_ham_enc_1011_stale_bits_ignored :
    outcome (exec .hamEnc (loadedA 4 0xFFFFFFFD 0)) = some [0, 7, 0x66, 0, 0, 0] := by decide
theorem test_ham_enc_length_5 : outcome (exec .hamEnc (loadedA 5 0xD 0)) = some [1, 0, 0, 0, 0, 0] := by decide
theorem test_ham_dec_0100011 : outcome (exec .hamDec (loadedA 7 0x62 0)) = some [0x50, 4, 0xD, 0, 0, 0] := by decide
theorem test_ham_dec_double_flip_1110010 :
    outcome (exec .hamDec (loadedA 7 0x27 0)) = some [0xB0, 4, 0x1, 0, 0, 0] := by decide

/-! ### CRC (vectors 3.3 to 3.6) -/

theorem test_crc_rem_40_by_33_bits :
    outcome (exec .crcRem (withP 33 0xDB710641 0x1 (loadedA 40 0xCC550F53 0xC3))) =
      some [0, 32, 0x2885425E, 0, 0, 0] := by decide +kernel
theorem test_crc_rem_leading_zero : outcome (exec .crcRem (withP 4 0xE 0 (loadedA 4 0xD 0))) = some [2, 0, 0, 0, 0, 0] := by
  decide
theorem test_crc_enc_1101 : outcome (exec .crcEnc (loadedA 4 0xB 0)) = some [0, 7, 0x4B, 0, 0, 0] := by decide
theorem test_crc_enc_longest :
    outcome (exec .crcEnc (withP 63 0x1 0x40000000 (loadedA 63 0xFFFFFFFF 0x7FFFFFFF))) =
      some [0, 125, 0xFFFFFFFF, 0xFFFFFFFF, 0xFFFFFFFF, 0x0FFFFFFF] := by decide +kernel
theorem test_crc_ver_flip_detected : outcome (exec .crcVer (loadedA 7 0x6B 0)) = some [0, 0, 0, 0, 0, 0] := by decide
theorem test_crc_ver_three_flips_missed : outcome (exec .crcVer (loadedA 7 0x68 0)) = some [8, 0, 0, 0, 0, 0] := by decide

/-! ### The port, reset and the step (vectors 4) -/

theorem test_reset_reads :
    [1, 2, 3, 4, 12, 13, 8, 16, 0].map (fun n => (readRegister n State.reset).toNat) = [0, 0, 4, 0, 0xD, 0, 0, 0, 0] := by
  decide
theorem test_alen_stored_modulo_64 : (readRegister 2 (writeRegister 2 0x44 State.reset)).toNat = 4 := by decide
theorem test_read_only_and_reserved_writes_ignored :
    [1, 4, 16, 5, 31].map (fun n => writeRegister n 0xFFFFFFFF (loadedA 4 0xD 0)) =
      List.replicate 5 (loadedA 4 0xD 0) := by decide
theorem test_step_runs_first_command :
    outcome (step (State.reset.withFetchWord 32 0x30)) = some [0, 3, 0, 0, 0, 0] := by decide
theorem test_step_illegal_word :
    outcome (step ((loadedA 4 0xD 0).withFetchWord 32 0x33)) = some [4, 0, 0, 0, 0, 0] := by decide
theorem test_step_read_is_received :
    (nextOf (step { State.reset with pending := [.regRead 3] })).map (fun t => t.received) = some [4] := by decide
theorem test_step_reset_restores_generator :
    (nextOf (step { withP 0 0 0 State.reset with pending := [.reset] })).map (fun t => (t.plen.toNat, t.pdata0.toNat)) =
      some (4, 0xD) := by decide
theorem test_no_transaction_while_reset :
    portAction { rst := true, sel := true, wr := true, addr := 0, wdata := 0x10, ready := false } = .reset := by decide
theorem test_changed_address_while_held_is_illegal :
    holdsSteady [{ rst := false, sel := true, wr := false, addr := 1, wdata := 0, ready := false },
      { rst := false, sel := true, wr := false, addr := 2, wdata := 0, ready := true }] = false := by decide

/-! ### The assembler (P1, P5 of the vectors) -/

theorem test_lda_40_bits :
    (lineActions (.lda (operandA (loadedA 40 0xCC550F53 0xC3))) State.reset).map (fun a => String.ofList (listing a State.reset)) =
      ["W 02 00000028", "W 08 CC550F53", "W 09 000000C3"] := by decide +kernel
theorem test_rdr_reads_one_word :
    (lineActions .rdr { State.reset with rlen := 7 }).map (fun a => String.ofList (listing a { State.reset with rlen := 7 })) =
      ["R 01 -> 00000000", "R 04 -> 00000007", "R 16 -> 00000000"] := by decide +kernel

/-! ### Witnesses: the hypotheses of each statement, met together -/

theorem witness_ParityDetectsExactlyOddFlips :
    [0, 4].Nodup ∧ ∀ i ∈ [0, 4], i < (parEncode [true, false, true, false]).length := by decide
theorem witness_HamEncEncodesFourBits :
    (loadedA 4 0xD 0).alen.toNat = 4 ∧ (loadedA 3 0 0).alen.toNat ≠ 4 ∧ (loadedA 5 0 0).alen.toNat ≠ 4 := by decide
theorem witness_HamDecCorrectsAndReports :
    (loadedA 7 0x62 0).alen.toNat = 7 ∧ (loadedA 6 0 0).alen.toNat ≠ 7 ∧ (loadedA 8 0 0).alen.toNat ≠ 7 := by decide
theorem witness_HamDecRoundTripAndSingleErrors :
    [true, false, true, true].length = 4 ∧ operandA (loadedA 7 0x66 0) = hamEncode [true, false, true, true] ∧
    operandA (loadedA 7 0x67 0) = flip (hamEncode [true, false, true, true]) 0 ∧
    operandA (loadedA 7 0x26 0) = flip (hamEncode [true, false, true, true]) 6 := by decide
theorem witness_HamDecMiscorrectsDoubleErrors :
    0 < 1 ∧ 1 < 7 ∧ operandA (loadedA 7 0x65 0) = flip (flip (hamEncode [true, false, true, true]) 0) 1 ∧
    5 < 6 ∧ 6 < 7 ∧ operandA (loadedA 7 0x06 0) = flip (flip (hamEncode [true, false, true, true]) 5) 6 := by decide
theorem witness_SyndromeNamesTheFlippedIndex :
    [true, false, true, true].length = 4 ∧ 6 < 7 ∧
    [false, true, true, false, false, true, false] = flip (hamEncode [true, false, true, true]) 6 := by decide
/-- For CrcRemGivesRemainder, CrcEncAppendsRemainder and CrcVerReportsZeroRemainder: both clauses. -/
theorem witness_CrcGeneratorClauses :
    (withP 1 1 0 State.reset).plen.toNat ≠ 0 ∧ bitAt (operandP (withP 1 1 0 State.reset)) 0 = true ∧
    (withP 63 1 0 State.reset).plen.toNat ≠ 0 ∧ bitAt (operandP (withP 63 1 0 State.reset)) 0 = true ∧
    (withP 0 1 0 State.reset).plen.toNat = 0 ∧ bitAt (operandP (withP 1 0 0 State.reset)) 0 = false := by decide +kernel
theorem witness_CrcScanClearsTheScannedBits :
    validGenerator Config.polyDefault = true ∧ 4 + degree Config.polyDefault ≤ (List.replicate 7 true).length ∧ 0 < 1 := by
  decide
theorem witness_CrcRemainderIsTheDivisionRemainder :
    validGenerator Config.polyDefault = true ∧ [false, false, true].length = degree Config.polyDefault ∧
    (∀ i ∈ [0, 1, 2, 3], i < [true, true, false, true].length) ∧
    [0, 1, 2, 3].foldl (fun w i => xorWindow w i Config.polyDefault)
      ([true, true, false, true] ++ zeros (degree Config.polyDefault)) = zeros 4 ++ [false, false, true] := by decide
/-- For CrcLengths, CrcCleanRoundTrip, CrcRemainderIsPolynomialRemainder and CrcMissesExactlyTheMultiples. -/
theorem witness_CrcValidGenerator : validGenerator [true] = true ∧ validGenerator Config.polyDefault = true := by decide
theorem witness_CrcDetectionIndependentOfData :
    validGenerator Config.polyDefault = true ∧ [true, false].length = [false, true].length := by decide
theorem witness_CrcSingleFlipDetected :
    validGenerator Config.polyDefault = true ∧ 6 < (crcEncode [true, true, false, true] Config.polyDefault).length := by
  decide
theorem witness_CrcShortBurstDetected :
    validGenerator Config.polyDefault = true ∧ 1 ≤ degree Config.polyDefault ∧
    bitAt Config.polyDefault (degree Config.polyDefault) = true ∧ [4, 6] ≠ [] ∧ [4, 6].Nodup ∧
    ∀ i ∈ [4, 6], 4 ≤ i ∧ i < 4 + degree Config.polyDefault ∧
      i < (crcEncode [true, true, false, true] Config.polyDefault).length := by decide
theorem witness_CrcOddFlipsDetectedByEvenGenerator :
    validGenerator [true, true] = true ∧ ones [true, true] % 2 = 0 ∧ [0, 1, 4].Nodup ∧
    (∀ i ∈ [0, 1, 4], i < (crcEncode [true, false, true, true] [true, true]).length) ∧ [0, 1, 4].length % 2 = 1 := by decide
theorem witness_CrcDegenerateGenerators :
    operandP (withP 1 1 0 State.reset) = true :: zeros 0 ∧ operandP (withP 4 1 0 State.reset) = true :: zeros 3 := by decide
theorem witness_IllegalWordRaisesIllegalCommand :
    (0x33#32 : Word) ∉ [0x10#32, 0x11#32, 0x20#32, 0x21#32, 0x30#32, 0x31#32, 0x32#32] := by decide
theorem witness_OutcomeDependsOnlyOnWordAAndP :
    operandA (loadedA 4 0xD 0) = operandA (loadedA 4 0xFD 7) ∧ operandP (loadedA 4 0xD 0) = operandP (loadedA 4 0xFD 7) ∧
    operandP (withP 0 0 0 State.reset) ≠ operandP State.reset ∧ 0x21#32 ∈ [0x10#32, 0x11#32, 0x20#32, 0x21#32] := by decide
theorem witness_BitsAboveTheLengthAreIgnored :
    (∀ i < (loadedA 4 0xD 0).alen.toNat, dataBit [0xFFFFFFFD, 7] i = dataBit (adataWords (loadedA 4 0xD 0)) i) ∧
    (∀ i < State.reset.plen.toNat, dataBit [0xFD, 7] i = dataBit (pdataWords State.reset) i) := by decide
theorem witness_StepRunsTheDecodedCommand :
    (State.reset.withFetchWord 32 0x21).pending = .regWrite 0 0x21#32 :: [] ∧ decode 0x21#32 = .ok .hamDec := by decide
theorem witness_RegReadReturnsTheRegister :
    { State.reset with pending := [.regRead 19] }.pending = .regRead 19 :: [] := by decide
theorem witness_RegWriteStoresIntoTheRegister :
    { State.reset with pending := [.regWrite 0 0x10] }.pending = .regWrite 0 0x10 :: [] ∧
    { State.reset with pending := [.regWrite 31 1] }.pending = .regWrite 31 1 :: [] := by decide
theorem witness_ReservedNumbersHoldNothing :
    (15 : RegNum).toNat ∈ [5, 6, 7, 10, 11, 14, 15] ∧ 20 ≤ (20 : RegNum).toNat ∧ 20 ≤ (31 : RegNum).toNat := by decide
theorem witness_ReadAfterCommandSeesItsOutcome :
    { State.reset with pending := [.regWrite 0 0x11, .regRead 1] }.pending = .regWrite 0 0x11 :: .regRead 1 :: [] := by decide
theorem witness_LoadLinesLoadTheBitString : (List.replicate 63 true).length ≤ 63 ∧ ([] : BitString).length ≤ 63 := by decide
theorem witness_CallTransactionsComputeTheFunctions :
    CallFits (.crcVerifyDefault [true]) State.reset ∧ CallFits (.crcEncode (List.replicate 63 true) []) State.reset := by
  constructor
  · exact ⟨by decide, by decide⟩
  · exact ⟨by decide, trivial⟩
/-- One cycle for each clause of PortCycleCarriesOneAction, as rst, sel, ready, wr. -/
theorem witness_PortCycleCarriesOneAction :
    portAction ⟨false, true, true, 3, 9, true⟩ = .regWrite 3 9 ∧ portAction ⟨false, true, false, 3, 9, true⟩ = .regRead 3 ∧
    portAction ⟨true, true, true, 3, 9, false⟩ = .reset ∧ portAction ⟨false, true, true, 3, 9, false⟩ = .idle ∧
    portAction ⟨false, false, true, 3, 9, true⟩ = .idle := by decide
theorem witness_ResetFromEveryState : { State.reset with pending := [.reset] }.pending = .reset :: [] := by decide
theorem witness_IdleHoldsTheState :
    State.reset.pending = [] ∧ { State.reset with pending := [.idle] }.pending = .idle :: [] := by decide
theorem witness_EveryStepKeepsTheInvariants :
    RlenBounded State.reset ∧ ResultTailZero State.reset ∧ ErrLegal State.reset ∧ ErrorClears State.reset ∧
    EposLegal State.reset ∧ OneFlagAtMost State.reset ∧ StatusHighZero State.reset ∧
    nextOf (step State.reset) = some State.reset := by decide +kernel

end Sys2Proof.Tests
end

section
/-! The reset state as the host reads it (R23), and the invariants of R24: what a command commits meets them, every
action of the host keeps them, and so every list of actions from reset does. -/

namespace Sys2Proof.Machine

/-! ### The reset state -/

theorem readRegister_reset (idx : RegNum) :
    readRegister idx State.reset = if idx = 3 then 4 else if idx = 12 then 0x0000000D else 0 := by
  revert idx; decide

/-- At reset R is what writing the empty result would leave. -/
theorem reset_holdsResult : HoldsResult [] State.reset := writeResult_holds [] State.reset (by decide)

theorem reset_holdsStatus : HoldsStatus 0 false false 0 State.reset := ⟨rfl, rfl, rfl, rfl⟩

/-- Settles O45: each register number, then each view, of the reset state. -/
theorem resetValues : Obligations.ResetValues :=
  ⟨readRegister_reset, reset_holdsStatus, rfl, by decide, reset_holdsResult⟩

/-! ### STATUS bits 31 to 8 (R24 (g)) -/

theorem toNat_statusWord_lt (s : State) : (statusWord s).toNat < 256 := by
  have herr := s.err.isLt
  have hepos := s.epos.isLt
  have hv := s.v.toNat_le
  have hc := s.c.toNat_le
  rw [statusWord, BitVec.toNat_ofNat]
  omega

theorem statusHighZero_of_state (s : State) : StatusHighZero s := by
  have hlt := toNat_statusWord_lt s
  apply BitVec.eq_of_toNat_eq
  change ((statusWord s).extractLsb' 8 24).toNat = 0
  simp only [BitVec.extractLsb'_toNat, Nat.shiftRight_eq_div_pow]
  omega

/-! ### From an outcome to the invariants -/

/-- A result with its flags as R14 and R85 allow them: R24 for a command that ends without error. -/
structure LegalResult (r : BitString) (v c : Bool) (epos : BitVec 3) : Prop where
  length : r.length ≤ Config.rmax
  eposOfNotCorrected : c = false → epos = 0
  eposBounded : epos.toNat ≤ 6
  oneFlag : ¬ (v = true ∧ c = true)

/-- The outcomes a command of the block may have: a legal result, or an error other than InvalidParameter (R111). -/
def CmdOutcome.Legal (o : CmdOutcome) : Prop :=
  match o with
  | .ok r v c epos => LegalResult r v c epos
  | .err x => x ≠ .invalidParameter

@[simp] theorem CmdOutcome.legal_ok {r : BitString} {v c : Bool} {epos : BitVec 3} :
    (CmdOutcome.ok r v c epos).Legal ↔ LegalResult r v c epos := Iff.rfl

@[simp] theorem CmdOutcome.legal_err {x : ErrorCause} : (CmdOutcome.err x).Legal ↔ x ≠ .invalidParameter := Iff.rfl

/-- A result that reports no correction is legal when R can hold it. -/
theorem LegalResult.ofUncorrected {r : BitString} (h : r.length ≤ Config.rmax) (v : Bool) :
    LegalResult r v false 0 := ⟨h, fun _ => rfl, by decide, by simp⟩

/-- The error codes a command may write (R111). -/
theorem errorCode_legal {x : ErrorCause} (h : x ≠ .invalidParameter) :
    errorCode x = 1 ∨ errorCode x = 2 ∨ errorCode x = 4 := by
  cases x with
  | invalidLength => exact .inl rfl
  | invalidPolynomial => exact .inr (.inl rfl)
  | invalidParameter => exact absurd rfl h
  | illegalCommand => exact .inr (.inr rfl)

/-- A state that holds a legal result and ERR = 0 meets R24. -/
theorem LegalResult.inv {r : BitString} {v c : Bool} {epos : BitVec 3} {t : State} (h : LegalResult r v c epos)
    (hr : HoldsResult r t) (hs : HoldsStatus 0 v c epos t) : Inv t := by
  obtain ⟨herr, hv, hc, hepos⟩ := hs
  constructor
  case rlenBounded => rw [RlenBounded, hr.rlen]; exact h.length
  case resultTailZero => rw [ResultTailZero, hr.rlen]; exact hr.tail
  case errLegal => exact .inl herr
  case errorClears => exact fun hne => absurd herr hne
  case eposLegal => rw [EposLegal, hc, hepos]; exact ⟨h.eposOfNotCorrected, h.eposBounded⟩
  case oneFlagAtMost => rw [OneFlagAtMost, hv, hc]; exact h.oneFlag
  case statusHighZero => exact statusHighZero_of_state t

/-- The error outcome of R112 meets R24. -/
theorem raiseError_inv {x : ErrorCause} (h : x ≠ .invalidParameter) (s : State) : Inv (raiseError x s) := by
  obtain ⟨hr, -, -⟩ := raiseError_outcome x s
  constructor
  case rlenBounded => exact Nat.zero_le _
  case resultTailZero => rw [ResultTailZero, hr.rlen]; exact hr.tail
  case errLegal => exact .inr (errorCode_legal h)
  case errorClears => exact fun _ => ⟨rfl, rfl, rfl, rfl⟩
  case eposLegal => exact ⟨fun _ => rfl, Nat.zero_le _⟩
  case oneFlagAtMost => exact fun hvc => Bool.false_ne_true hvc.1
  case statusHighZero => exact statusHighZero_of_state _

/-- Committing a legal outcome establishes R24, from any state. -/
theorem commit_inv {o : CmdOutcome} (h : o.Legal) (s : State) : Inv (commit o s) := by
  cases o with
  | ok r v c epos =>
    obtain ⟨hr, hs⟩ := commit_ok_holds r v c epos s h.length
    exact h.inv hr hs
  | err x => exact raiseError_inv h s

/-! ### The outcome of each command is legal -/

theorem length_parEncode (d : BitString) : (parEncode d).length = d.length + 1 := by simp [parEncode]

/-- The remainder is never longer than the generator, valid or not (R85). -/
theorem length_crcRemainder_le (m g : BitString) : (crcRemainder m g).length ≤ degree g := by
  simp [crcRemainder, slice]

theorem length_crcEncode_le (d g : BitString) : (crcEncode d g).length ≤ d.length + degree g := by
  simpa [crcEncode] using length_crcRemainder_le d g

@[simp] theorem length_hamEncode (d : BitString) : (hamEncode d).length = 7 := rfl

@[simp] theorem length_hamDecode (r : BitString) : (hamDecode r).length = 4 := rfl

theorem syndrome_le_seven (r : BitString) : syndrome r ≤ 7 := by
  have h1 := (bitAt r 0 ^^ bitAt r 2 ^^ bitAt r 4 ^^ bitAt r 6).toNat_le
  have h2 := (bitAt r 1 ^^ bitAt r 2 ^^ bitAt r 5 ^^ bitAt r 6).toNat_le
  have h3 := (bitAt r 3 ^^ bitAt r 4 ^^ bitAt r 5 ^^ bitAt r 6).toNat_le
  simp only [syndrome]
  omega

/-- EPOS is 0 where C is 0 (R14). -/
theorem eposField_of_not_corrected {n : Nat} (h : correctedFlag n = false) : eposField n = 0 := by
  have hn : n = 0 := by simpa [correctedFlag] using h
  simp [eposField, hn]

/-- EPOS names one of the seven indices (R14). -/
theorem toNat_eposField_le {n : Nat} (h : n ≤ 7) : (eposField n).toNat ≤ 6 := by
  unfold eposField
  split
  · exact Nat.zero_le _
  · rw [BitVec.toNat_ofNat]; omega

theorem hamEncOutcome_legal (a : BitString) : (hamEncOutcome a).Legal := by
  unfold hamEncOutcome
  split
  · simp
  · exact .ofUncorrected (by simp [Config.rmax]) false

theorem hamDecOutcome_legal (a : BitString) : (hamDecOutcome a).Legal := by
  unfold hamDecOutcome
  split
  · simp
  · exact {
      length := by simp [Config.rmax]
      eposOfNotCorrected := eposField_of_not_corrected
      eposBounded := toNat_eposField_le (syndrome_le_seven a)
      oneFlag := by simp }

/-- A CRC command: its result where the generator is valid, InvalidPolynomial where it is not (R86 to R88). -/
theorem crcOutcome_legal (p : BitString) {r : BitString} (v : Bool) (h : r.length ≤ Config.rmax) :
    CmdOutcome.Legal (if validGenerator p then .ok r v false 0 else .err .invalidPolynomial) := by
  split
  · exact .ofUncorrected h v
  · simp

/-- Every command on operands the registers can hold has a legal outcome. -/
theorem outcomeOf_legal (i : Instr) {a p : BitString} (ha : a.length ≤ Config.lmax) (hp : p.length ≤ Config.pmax) :
    (outcomeOf i a p).Legal := by
  have hnil : ([] : BitString).length ≤ Config.rmax := Nat.zero_le _
  have hdeg : degree p ≤ 62 := by simp only [degree, Config.pmax] at hp ⊢; omega
  simp only [Config.lmax] at ha
  cases i with
  | parEnc => exact .ofUncorrected (by rw [length_parEncode, Config.rmax]; omega) false
  | parVer => exact .ofUncorrected hnil (parVerify a)
  | hamEnc => exact hamEncOutcome_legal a
  | hamDec => exact hamDecOutcome_legal a
  | crcRem =>
    have hr := length_crcRemainder_le a p
    exact crcOutcome_legal p false (by rw [Config.rmax]; omega)
  | crcEnc =>
    have hr := length_crcEncode_le a p
    exact crcOutcome_legal p false (by rw [Config.rmax]; omega)
  | crcVer => exact crcOutcome_legal p (crcVerify a p) hnil

/-! ### Every action of the host -/

/-- A legal command establishes R24 from any state. -/
theorem exec_inv (i : Instr) (s : State) : ∃ t : State, exec i s = .next t ∧ Inv t :=
  ⟨_, exec_eq_commit i s, commit_inv (outcomeOf_legal i (length_operandA_le s) (length_operandP_le s)) s⟩

/-- So does every word written to CMD: an illegal one raises IllegalCommand (R52). -/
theorem executeCommand_inv (w : Word) (s : State) : ∃ t : State, executeCommand w s = .next t ∧ Inv t := by
  unfold executeCommand
  split
  · exact exec_inv _ s
  · exact ⟨_, rfl, raiseError_inv (by decide) s⟩

/-- R24 speaks of R, RLEN and STATUS alone. -/
theorem Inv.of_sameOutcome {s t : State} (hs : Inv s) (h : SameOutcome s t) : Inv t := by
  obtain ⟨hrlen, hrdata, herr, hv, hc, hepos⟩ := h
  constructor
  case rlenBounded => rw [RlenBounded, ← hrlen]; exact hs.rlenBounded
  case resultTailZero => rw [ResultTailZero, ← hrlen, ← hrdata]; exact hs.resultTailZero
  case errLegal => rw [ErrLegal, ← herr]; exact hs.errLegal
  case errorClears => rw [ErrorClears, ← herr, ← hrlen, ← hv, ← hc, ← hepos]; exact hs.errorClears
  case eposLegal => rw [EposLegal, ← hc, ← hepos]; exact hs.eposLegal
  case oneFlagAtMost => rw [OneFlagAtMost, ← hv, ← hc]; exact hs.oneFlagAtMost
  case statusHighZero => exact statusHighZero_of_state t

/-- A register write other than to CMD leaves R, RLEN and STATUS (R15, R19, R33). -/
theorem writeRegister_sameOutcome (idx : RegNum) (v : Word) (s : State) : SameOutcome s (writeRegister idx v s) := by
  unfold writeRegister
  split <;> exact ⟨rfl, rfl, rfl, rfl, rfl, rfl⟩

/-- A read leaves every register (R32). -/
theorem deliver_sameOutcome (w : Word) (s : State) : SameOutcome s (deliver w s) := ⟨rfl, rfl, rfl, rfl, rfl, rfl⟩

/-- Reset gives R, RLEN and STATUS their reset values (R130). -/
theorem resetBlock_sameOutcome (s : State) : SameOutcome State.reset (resetBlock s) := ⟨rfl, rfl, rfl, rfl, rfl, rfl⟩

theorem reset_inv : Inv State.reset :=
  (LegalResult.ofUncorrected (Nat.zero_le _) false).inv reset_holdsResult reset_holdsStatus

/-- Every action of the host completes and keeps R24. -/
theorem perform_inv (a : HostAction) {s : State} (hs : Inv s) : ∃ t : State, perform a s = .next t ∧ Inv t := by
  cases a with
  | idle => exact ⟨s, rfl, hs⟩
  | regRead idx => exact ⟨_, rfl, hs.of_sameOutcome (deliver_sameOutcome _ s)⟩
  | regWrite idx v =>
    rw [perform]
    split
    · exact executeCommand_inv v s
    · exact ⟨_, rfl, hs.of_sameOutcome (writeRegister_sameOutcome idx v s)⟩
  | reset => exact ⟨_, rfl, reset_inv.of_sameOutcome (resetBlock_sameOutcome s)⟩

theorem performAll_cons_of_next {a : HostAction} {s t : State} (h : perform a s = .next t)
    (rest : List HostAction) : performAll (a :: rest) s = performAll rest t := by
  simp only [performAll, h]

/-- Every list of actions completes and keeps R24. -/
theorem performAll_inv (acts : List HostAction) {s : State} (hs : Inv s) :
    ∃ t : State, performAll acts s = .next t ∧ Inv t := by
  induction acts generalizing s with
  | nil => exact ⟨s, rfl, hs⟩
  | cons a rest ih =>
    obtain ⟨u, hu, hinv⟩ := perform_inv a hs
    rw [performAll_cons_of_next hu]
    exact ih hinv

/-- Settles O52: R24 holds at reset and every action keeps it. -/
theorem reachableStatesMeetTheInvariants : Obligations.ReachableStatesMeetTheInvariants :=
  fun acts => performAll_inv acts reset_inv

end Sys2Proof.Machine
end

section
/-! The decoder against the encoder (R51), and what `Execute` does with a word that is no command (R52). -/

namespace Sys2Proof.Machine

/-! ### The decoder -/

/-- The seven words of the opcode map (R51), in the order of its rows. -/
theorem map_encode_commands :
    [Instr.parEnc, .parVer, .hamEnc, .hamDec, .crcRem, .crcEnc, .crcVer].map encode =
      [0x00000010#32, 0x00000011#32, 0x00000020#32, 0x00000021#32, 0x00000030#32, 0x00000031#32, 0x00000032#32] := rfl

@[simp] theorem decode_encode (i : Instr) : decode (encode i) = .ok i := by cases i <;> rfl

/-- Each test of the decoder that answers a command compares the word with that command's own. -/
theorem eq_encode_of_decode_eq_ok {w : Word} {i : Instr} (h : decode w = .ok i) : w = encode i := by
  unfold decode at h
  split_ifs at h with hw hw hw hw hw hw hw <;> cases h <;> exact hw

theorem decode_eq_ok_iff (w : Word) (i : Instr) : decode w = .ok i ↔ w = encode i := by
  constructor
  · exact eq_encode_of_decode_eq_ok
  · rintro rfl
    exact decode_encode i

/-- Settles O33: the decoder inverts the encoder and answers a command for its word alone. -/
theorem decodeIsEqualityOfTheWord : Obligations.DecodeIsEqualityOfTheWord :=
  ⟨decode_eq_ok_iff, map_encode_commands⟩

/-! ### Illegal words -/

theorem encode_mem_words (i : Instr) :
    encode i ∈ [0x10#32, 0x11#32, 0x20#32, 0x21#32, 0x30#32, 0x31#32, 0x32#32] := by
  rw [← map_encode_commands]
  exact List.mem_map_of_mem (by cases i <;> decide)

/-- A word that encodes no command raises IllegalCommand, whatever the reason it is illegal. -/
theorem executeCommand_of_ne_encode {w : Word} (h : ∀ i : Instr, w ≠ encode i) (s : State) :
    executeCommand w s = .next (raiseError .illegalCommand s) := by
  unfold executeCommand
  split
  case h_1 i hi => exact absurd (eq_encode_of_decode_eq_ok hi) (h i)
  case h_2 => rfl

/-- Settles O26: a word outside the seven encodes no command, and raising IllegalCommand leaves ERR = 4. -/
theorem illegalWordRaisesIllegalCommand : Obligations.IllegalWordRaisesIllegalCommand := by
  intro w s hw
  have hne : ∀ i : Instr, w ≠ encode i := fun i hi => hw (hi ▸ encode_mem_words i)
  exact ⟨_, executeCommand_of_ne_encode hne s, raiseError_outcome .illegalCommand s⟩

end Sys2Proof.Machine
end

section
/-! The PAR unit (40_parity.md): the parity of the count of ones, the code itself, and the two commands. -/

namespace Sys2Proof.Machine

/-! ### The count of ones -/

@[simp] theorem ones_nil : ones [] = 0 := rfl

@[simp] theorem ones_cons (b : Bool) (s : BitString) : ones (b :: s) = ones s + b.toNat := by
  cases b <;> simp [ones]

@[simp] theorem ones_append (s t : BitString) : ones (s ++ t) = ones s + ones t := List.count_append

@[simp] theorem flip_cons_zero (b : Bool) (s : BitString) : flip (b :: s) 0 = (!b) :: s := by simp [flip]

@[simp] theorem flip_cons_succ (b : Bool) (s : BitString) (i : Nat) : flip (b :: s) (i + 1) = b :: flip s i := rfl

/-- A flip adds one 1 or takes one away, so it changes the parity of the count. -/
theorem ones_flip_mod_two {s : BitString} {i : Nat} (h : i < s.length) :
    ones (flip s i) % 2 = (ones s + 1) % 2 := by
  induction s generalizing i with
  | nil => simp at h
  | cons b s ih =>
    cases i with
    | zero =>
      have hb : (!b).toNat + b.toNat = 1 := by cases b <;> rfl
      simp only [flip_cons_zero, ones_cons]
      omega
    | succ i =>
      have ih := ih (Nat.lt_of_succ_lt_succ h)
      simp only [flip_cons_succ, ones_cons]
      omega

/-- Each flip changes the parity once, so only the number of flips matters (R68). -/
theorem ones_flipAll_mod_two {s : BitString} {is : List Nat} (h : ∀ i ∈ is, i < s.length) :
    ones (flipAll s is) % 2 = (ones s + is.length) % 2 := by
  induction is generalizing s with
  | nil => rfl
  | cons i is ih =>
    obtain ⟨hi, his⟩ := List.forall_mem_cons.1 h
    have hflip := ones_flip_mod_two hi
    have hrest : ones (flipAll (flip s i) is) % 2 = (ones (flip s i) + is.length) % 2 := ih (by simpa using his)
    change ones (flipAll (flip s i) is) % 2 = _
    rw [hrest, List.length_cons]
    omega

/-! ### The even-parity code (R65) -/

theorem parVerify_eq_decide (d : BitString) : parVerify d = decide (ones d % 2 = 0) := rfl

theorem parVerify_eq_false_iff (d : BitString) : parVerify d = false ↔ ones d % 2 = 1 := by
  rw [parVerify_eq_decide, decide_eq_false_iff_not, Nat.mod_two_not_eq_zero]

/-- The parity bit is the parity of the count of ones. -/
theorem toNat_not_evenOnes (d : BitString) : (!evenOnes d).toNat = ones d % 2 := by
  obtain h | h := Nat.mod_two_eq_zero_or_one (ones d) <;> simp [evenOnes, h]

/-- The parity bit makes the count of ones even. -/
theorem ones_parEncode_mod_two (d : BitString) : ones (parEncode d) % 2 = 0 := by
  rw [parEncode, ones_append, ones_cons, ones_nil, toNat_not_evenOnes]
  omega

/-- Settles O3: the count of ones of an encoded BitString is even. -/
theorem parityRoundTrip : Obligations.ParityRoundTrip := fun d => by
  rw [parVerify_eq_decide, ones_parEncode_mod_two]
  rfl

/-- Settles O4: the count of ones is even before the flips, so after `m` of them it has the parity of `m`. That the
indices are distinct is not needed: flipping one index twice restores the bit and adds two to `m`. -/
theorem parityDetectsExactlyOddFlips : Obligations.ParityDetectsExactlyOddFlips := by
  intro d is _ hlt
  have heven := ones_parEncode_mod_two d
  have hflips := ones_flipAll_mod_two hlt
  rw [parVerify_eq_false_iff]
  omega

/-! ### The commands -/

/-- A command whose outcome is a BitString that R can hold completes with it and keeps its operands (R56). -/
theorem exec_of_outcomeOf_ok {i : Instr} {s : State} {r : BitString} {v c : Bool} {epos : BitVec 3}
    (ho : outcomeOf i (operandA s) (operandP s) = .ok r v c epos) (hr : r.length ≤ Config.rmax) :
    ∃ t : State, exec i s = .next t ∧ HoldsResult r t ∧ HoldsStatus 0 v c epos t ∧ KeepsOperands s t := by
  obtain ⟨hres, hstatus⟩ := commit_ok_holds r v c epos s hr
  exact ⟨_, by rw [exec_eq_commit, ho], hres, hstatus, commit_keeps _ s⟩

/-- Settles O1: the outcome of PAR.ENC is `par_encode(A)`, one bit longer than A. -/
theorem parEncAppendsParityBit : Obligations.ParEncAppendsParityBit := by
  intro s
  have hlen : (parEncode (operandA s)).length = s.alen.toNat + 1 := by rw [length_parEncode, length_operandA]
  have hfits : (parEncode (operandA s)).length ≤ Config.rmax := by
    have ha := length_operandA_le s
    rw [length_parEncode, Config.rmax]
    omega
  have hbit : (!evenOnes (operandA s)) = true ↔ ones (operandA s) % 2 = 1 := by
    rw [← toNat_not_evenOnes, Bool.toNat_eq_one]
  obtain ⟨t, ht, hres, hstatus, hkeeps⟩ := exec_of_outcomeOf_ok (i := .parEnc) (s := s) rfl hfits
  exact ⟨t, ht, ⟨_, hbit, hres⟩, hres.rlen.trans hlen, hstatus, hkeeps⟩

/-- Settles O2: the outcome of PAR.VER is the empty BitString, with `par_verify(A)` as V. -/
theorem parVerReportsEvenParity : Obligations.ParVerReportsEvenParity := by
  intro s
  rw [← parVerify_eq_decide]
  exact exec_of_outcomeOf_ok (i := .parVer) rfl (Nat.zero_le _)

end Sys2Proof.Machine
end

section
/-! The HAM unit (41_hamming.md): the syndrome as a linear function of the received word, what the decoder does with a
coded word and with each single flip of one, and the two commands. -/

namespace Sys2Proof.Machine

/-! ### A flip, bit by bit -/

/-- A flip is an exclusive or with the word that is 1 at the flipped index alone. -/
theorem bitAt_flip {s : BitString} {i : Nat} (h : i < s.length) (j : Nat) :
    bitAt (flip s i) j = (bitAt s j ^^ decide (i = j)) := by
  by_cases hij : i = j
  · subst hij
    simp [flip, bitAt, h]
  · simp [flip, bitAt, hij]

@[simp] theorem bitAt_zeros (n j : Nat) : bitAt (zeros n) j = false := by
  by_cases h : j < n <;> simp [bitAt, zeros, h]

theorem flip_flip (s : BitString) (i : Nat) : flip (flip s i) i = s := by
  induction s generalizing i with
  | nil => rfl
  | cons b s ih => cases i <;> simp [ih]

/-! ### The syndrome (R73) -/

/-- Three bits as a number: the exclusive or of the bits is the exclusive or of the numbers. -/
theorem threeBits_xor (a b c x y z : Bool) :
    (a ^^ x).toNat + 2 * (b ^^ y).toNat + 4 * (c ^^ z).toNat =
      (a.toNat + 2 * b.toNat + 4 * c.toNat) ^^^ (x.toNat + 2 * y.toNat + 4 * z.toNat) := by
  decide +revert

/-- A sum of four bits distributes over the exclusive or. -/
theorem check_xor (a b c d x y z w : Bool) :
    ((a ^^ x) ^^ (b ^^ y) ^^ (c ^^ z) ^^ (d ^^ w)) = ((a ^^ b ^^ c ^^ d) ^^ (x ^^ y ^^ z ^^ w)) := by
  simp only [Bool.xor_assoc, Bool.xor_left_comm]

/-- The syndrome is linear: an error pattern `e` on the word `r` adds its own syndrome. -/
theorem syndrome_of_bitAt_xor {r e w : BitString} (h : ∀ j, bitAt w j = (bitAt r j ^^ bitAt e j)) :
    syndrome w = syndrome r ^^^ syndrome e := by
  simp only [syndrome, h, check_xor, threeBits_xor]

/-- The word that is 1 at index `i` alone has the syndrome `i + 1`. -/
theorem syndrome_flip_zeros {i : Nat} (hi : i < 7) : syndrome (flip (zeros 7) i) = i + 1 := by
  decide +revert

theorem syndrome_flip {r : BitString} {i : Nat} (hr : r.length = 7) (hi : i < 7) :
    syndrome (flip r i) = syndrome r ^^^ (i + 1) := by
  have hbits : ∀ j, bitAt (flip r i) j = (bitAt r j ^^ bitAt (flip (zeros 7) i) j) := fun j => by
    rw [bitAt_flip (by omega), bitAt_flip (by simpa using hi), bitAt_zeros, Bool.false_xor]
  rw [syndrome_of_bitAt_xor hbits, syndrome_flip_zeros hi]

/-- Each parity bit is the sum of the data bits in its check, so every check of a coded word is 0 (R71, R73). -/
theorem syndrome_hamEncode (d : BitString) : syndrome (hamEncode d) = 0 := by
  have hchecks : ∀ d1 d2 d3 d4 : Bool,
      syndrome [d1 ^^ d2 ^^ d4, d1 ^^ d3 ^^ d4, d1, d2 ^^ d3 ^^ d4, d2, d3, d4] = 0 := by decide
  exact hchecks _ _ _ _

theorem syndrome_flip_hamEncode (d : BitString) {i : Nat} (hi : i < 7) : syndrome (flip (hamEncode d) i) = i + 1 := by
  rw [syndrome_flip (length_hamEncode d) hi, syndrome_hamEncode, Nat.zero_xor]

/-- Settles O9: a coded word has syndrome 0, and by linearity a flip adds the syndrome of its index. -/
theorem syndromeNamesTheFlippedIndex : Obligations.SyndromeNamesTheFlippedIndex := by
  refine ⟨fun r => ⟨rfl, syndrome_le_seven r⟩, fun d _ => ⟨syndrome_hamEncode d, ?_⟩⟩
  rintro r i hi rfl
  exact syndrome_flip_hamEncode d hi

/-! ### The decoder (R74) -/

theorem hamCorrect_of_syndrome_eq_zero {r : BitString} (h : syndrome r = 0) : hamCorrect r = r := if_pos h

/-- The working copy at every index of the word: the bit the syndrome names is inverted. -/
theorem bitAt_hamCorrect {r : BitString} (hr : r.length = 7) (j : Nat) :
    bitAt (hamCorrect r) j = if syndrome r = j + 1 then !bitAt r j else bitAt r j := by
  have hle := syndrome_le_seven r
  by_cases hzero : syndrome r = 0
  · rw [hamCorrect_of_syndrome_eq_zero hzero, if_neg (by omega)]
  · rw [hamCorrect, if_neg hzero, bitAt_flip (by omega)]
    by_cases hj : syndrome r = j + 1
    · simp [hj]
    · have hne : syndrome r - 1 ≠ j := by omega
      simp [hj, hne]

/-- The correction undoes a single flip of a coded word. -/
theorem hamCorrect_flip_hamEncode (d : BitString) {i : Nat} (hi : i < 7) :
    hamCorrect (flip (hamEncode d) i) = hamEncode d := by
  rw [hamCorrect, syndrome_flip_hamEncode d hi, if_neg (Nat.succ_ne_zero i), Nat.add_sub_cancel, flip_flip]

/-- Indices 2, 4, 5, 6 of a coded word are the data (R72), so a word corrected to it decodes to the data. -/
theorem hamDecode_of_hamCorrect_eq {r d : BitString} (hd : d.length = 4) (h : hamCorrect r = hamEncode d) :
    hamDecode r = d := by
  rw [hamDecode, h]
  match d, hd with
  | [_, _, _, _], _ => rfl

theorem hamDecode_hamEncode {d : BitString} (hd : d.length = 4) : hamDecode (hamEncode d) = d :=
  hamDecode_of_hamCorrect_eq hd (hamCorrect_of_syndrome_eq_zero (syndrome_hamEncode d))

theorem hamDecode_flip_hamEncode {d : BitString} (hd : d.length = 4) {i : Nat} (hi : i < 7) :
    hamDecode (flip (hamEncode d) i) = d :=
  hamDecode_of_hamCorrect_eq hd (hamCorrect_flip_hamEncode d hi)

/-! ### The commands -/

/-- A command whose outcome is an error completes with the error outcome (R56, R112). -/
theorem exec_of_outcomeOf_err {i : Instr} {s : State} {x : ErrorCause}
    (ho : outcomeOf i (operandA s) (operandP s) = .err x) :
    ∃ t : State, exec i s = .next t ∧ ErrorOutcome (errorCode x) s t :=
  ⟨_, by rw [exec_eq_commit, ho, commit_err], raiseError_outcome x s⟩

theorem hamEncOutcome_of_length_eq {a : BitString} (h : a.length = 4) :
    hamEncOutcome a = .ok (hamEncode a) false false 0 := if_neg (not_not_intro h)

theorem hamEncOutcome_of_length_ne {a : BitString} (h : a.length ≠ 4) :
    hamEncOutcome a = .err .invalidLength := if_pos h

theorem hamDecOutcome_of_length_eq {a : BitString} (h : a.length = 7) :
    hamDecOutcome a = .ok (hamDecode a) false (correctedFlag (syndrome a)) (eposField (syndrome a)) :=
  if_neg (not_not_intro h)

theorem hamDecOutcome_of_length_ne {a : BitString} (h : a.length ≠ 7) :
    hamDecOutcome a = .err .invalidLength := if_pos h

theorem correctedFlag_eq_decide (n : Nat) : correctedFlag n = decide (n ≠ 0) := by
  rw [decide_not]
  rfl

/-- HAM.DEC on seven bits, in the decoder's own terms (R76). -/
theorem exec_hamDec_of_length_eq {s : State} (h : (operandA s).length = 7) :
    ∃ t : State, exec .hamDec s = .next t ∧ HoldsResult (hamDecode (operandA s)) t ∧
      HoldsStatus 0 false (correctedFlag (syndrome (operandA s))) (eposField (syndrome (operandA s))) t ∧
      KeepsOperands s t :=
  exec_of_outcomeOf_ok (hamDecOutcome_of_length_eq h) (by simp [Config.rmax])

/-- HAM.DEC on seven bits whose data and syndrome are known. -/
theorem exec_hamDec_of_decoded {s : State} {d : BitString} {n : Nat} (h : (operandA s).length = 7)
    (hdata : hamDecode (operandA s) = d) (hsyn : syndrome (operandA s) = n) :
    ∃ t : State, exec .hamDec s = .next t ∧ HoldsResult d t ∧
      HoldsStatus 0 false (correctedFlag n) (eposField n) t := by
  subst hdata hsyn
  obtain ⟨t, ht, hres, hstatus, -⟩ := exec_hamDec_of_length_eq h
  exact ⟨t, ht, hres, hstatus⟩

/-- Settles O5: the outcome of HAM.ENC is `ham_encode(A)` for four bits, InvalidLength otherwise. -/
theorem hamEncEncodesFourBits : Obligations.HamEncEncodesFourBits := by
  constructor
  · intro s hlen
    rw [← length_operandA] at hlen
    exact exec_of_outcomeOf_ok (i := .hamEnc) (hamEncOutcome_of_length_eq hlen) (by simp [Config.rmax])
  · intro s hlen
    rw [← length_operandA] at hlen
    exact exec_of_outcomeOf_err (i := .hamEnc) (hamEncOutcome_of_length_ne hlen)

/-- Settles O6: the outcome of HAM.DEC on seven bits is the data of the working copy, whose bits are those of A with
the one the syndrome names inverted; InvalidLength otherwise. -/
theorem hamDecCorrectsAndReports : Obligations.HamDecCorrectsAndReports := by
  constructor
  · intro s hlen r syn c
    rw [← length_operandA] at hlen
    have hbit : ∀ j, bitAt (hamCorrect (operandA s)) j = c j := bitAt_hamCorrect hlen
    have hdata : hamDecode (operandA s) = [c 2, c 4, c 5, c 6] := by simp only [hamDecode, hbit]
    rw [← hdata, ← correctedFlag_eq_decide]
    exact exec_hamDec_of_length_eq hlen
  · intro s hlen
    rw [← length_operandA] at hlen
    exact exec_of_outcomeOf_err (i := .hamDec) (hamDecOutcome_of_length_ne hlen)

/-- Settles O7: the decoder gives the data back, with the syndrome 0 for the coded word and `i + 1` for its flip at
index `i`. -/
theorem hamDecRoundTripAndSingleErrors : Obligations.HamDecRoundTripAndSingleErrors := by
  intro s d hd
  constructor
  · intro hA
    exact exec_hamDec_of_decoded (n := 0) (by rw [hA, length_hamEncode]) (by rw [hA, hamDecode_hamEncode hd])
      (by rw [hA, syndrome_hamEncode])
  · intro i hi hA
    exact exec_hamDec_of_decoded (n := i + 1) (by rw [hA, length_flip, length_hamEncode])
      (by rw [hA, hamDecode_flip_hamEncode hd hi]) (by rw [hA, syndrome_flip_hamEncode d hi])

end Sys2Proof.Machine
end

section
/-! The CRC unit (42_crc.md): the lengths of its results, the three commands, and the degenerate generators. -/

namespace Sys2Proof.Machine

/-! ### The lengths (R85) -/

/-- The working buffer has exactly `k` bits behind the scanned positions, whatever the generator. -/
@[simp] theorem length_crcRemainder (m g : BitString) : (crcRemainder m g).length = degree g := by
  simp [crcRemainder, slice]

@[simp] theorem length_crcEncode (d g : BitString) : (crcEncode d g).length = d.length + degree g := by
  simp [crcEncode]

@[simp] theorem degree_operandP (s : State) : degree (operandP s) = s.plen.toNat - 1 := by simp [degree]

/-- R can hold the encoded operand: at most 63 + 62 bits. -/
theorem length_crcEncode_operands_le (s : State) :
    (crcEncode (operandA s) (operandP s)).length ≤ Config.rmax := by
  have ha := s.alen.isLt
  have hp := s.plen.isLt
  rw [length_crcEncode, length_operandA, degree_operandP, Config.rmax]
  omega

/-- The remainder is the end of the encoded operand, so R can hold it too. -/
theorem length_crcRemainder_operands_le (s : State) :
    (crcRemainder (operandA s) (operandP s)).length ≤ Config.rmax := by
  have henc := length_crcEncode_operands_le s
  rw [length_crcEncode] at henc
  rw [length_crcRemainder]
  omega

/-- Settles O15: no scan position changes the length of the working buffer, and the operands have at most 63 bits. -/
theorem crcLengths : Obligations.CrcLengths :=
  ⟨fun m g _ => ⟨length_crcRemainder m g, length_crcEncode m g, fun n => by simp⟩,
    fun s => ⟨length_crcEncode_operands_le s, length_crcRemainder_operands_le s⟩⟩

/-! ### The valid generators (R81) -/

/-- The empty BitString reads 0 at index 0, so the first bit alone decides. -/
theorem validGenerator_eq_bitAt_zero (g : BitString) : validGenerator g = bitAt g 0 := by
  cases g <;> simp [validGenerator]

theorem bitAt_operandP_zero_of_plen_eq_zero {s : State} (h : s.plen.toNat = 0) : bitAt (operandP s) 0 = false :=
  bitAt_of_length_le _ _ (by rw [length_operandP, h])

/-! ### The commands (R86 to R88) -/

theorem crcRemOutcome_of_valid (a : BitString) {p : BitString} (h : validGenerator p = true) :
    crcRemOutcome a p = .ok (crcRemainder a p) false false 0 := if_pos h

theorem crcEncOutcome_of_valid (a : BitString) {p : BitString} (h : validGenerator p = true) :
    crcEncOutcome a p = .ok (crcEncode a p) false false 0 := if_pos h

theorem crcVerOutcome_of_valid (a : BitString) {p : BitString} (h : validGenerator p = true) :
    crcVerOutcome a p = .ok [] (crcVerify a p) false 0 := if_pos h

/-- The three commands refuse the same generators, with the same error. -/
theorem outcomeOf_crc_of_invalid {i : Instr} (hi : i ∈ [Instr.crcRem, .crcEnc, .crcVer]) (a : BitString)
    {p : BitString} (h : validGenerator p = false) : outcomeOf i a p = .err .invalidPolynomial := by
  have hp : ¬ validGenerator p = true := Bool.eq_false_iff.1 h
  simp only [List.mem_cons, List.not_mem_nil, or_false] at hi
  obtain rfl | rfl | rfl := hi <;> exact if_neg hp

/-- A generator that is empty or begins with 0 raises InvalidPolynomial in all three commands. -/
theorem exec_crc_of_invalid {i : Instr} (hi : i ∈ [Instr.crcRem, .crcEnc, .crcVer]) {s : State}
    (h : s.plen.toNat = 0 ∨ bitAt (operandP s) 0 = false) :
    ∃ t : State, exec i s = .next t ∧ ErrorOutcome 2 s t := by
  have hbit : bitAt (operandP s) 0 = false := h.elim bitAt_operandP_zero_of_plen_eq_zero id
  have hinvalid : validGenerator (operandP s) = false := by rw [validGenerator_eq_bitAt_zero, hbit]
  exact exec_of_outcomeOf_err (outcomeOf_crc_of_invalid hi _ hinvalid)

/-- Settles O10: the outcome of CRC.REM is the remainder, one bit shorter than P. -/
theorem crcRemGivesRemainder : Obligations.CrcRemGivesRemainder := by
  refine ⟨fun s _ hbit => ?_, fun s h => exec_crc_of_invalid (by decide) h⟩
  have hvalid := (validGenerator_eq_bitAt_zero (operandP s)).trans hbit
  obtain ⟨t, ht, hres, hstatus, hkeeps⟩ := exec_of_outcomeOf_ok (i := .crcRem)
    (crcRemOutcome_of_valid _ hvalid) (length_crcRemainder_operands_le s)
  have hrlen : t.rlen.toNat = s.plen.toNat - 1 := by rw [hres.rlen, length_crcRemainder, degree_operandP]
  exact ⟨t, ht, hres, hrlen, hstatus, hkeeps⟩

/-- Settles O11: the outcome of CRC.ENC is A and its remainder, so one bit shorter than A and P together. -/
theorem crcEncAppendsRemainder : Obligations.CrcEncAppendsRemainder := by
  refine ⟨fun s hplen hbit => ?_, fun s h => exec_crc_of_invalid (by decide) h⟩
  have hvalid := (validGenerator_eq_bitAt_zero (operandP s)).trans hbit
  obtain ⟨t, ht, hres, hstatus, hkeeps⟩ := exec_of_outcomeOf_ok (i := .crcEnc)
    (crcEncOutcome_of_valid _ hvalid) (length_crcEncode_operands_le s)
  have hrlen : t.rlen.toNat = s.alen.toNat + s.plen.toNat - 1 := by
    rw [hres.rlen, length_crcEncode, length_operandA, degree_operandP]
    omega
  exact ⟨t, ht, hres, hrlen, hstatus, hkeeps⟩

theorem allzero_eq_decide (s : BitString) : allzero s = decide (true ∉ s) := by
  rw [Bool.eq_iff_iff, decide_eq_true_iff]
  simp [allzero]

/-- Settles O12: the outcome of CRC.VER is the empty BitString, with `crc_verify(A, P)` as V. -/
theorem crcVerReportsZeroRemainder : Obligations.CrcVerReportsZeroRemainder := by
  refine ⟨fun s _ hbit => ?_, fun s h => exec_crc_of_invalid (by decide) h⟩
  have hvalid := (validGenerator_eq_bitAt_zero (operandP s)).trans hbit
  rw [← allzero_eq_decide]
  exact exec_of_outcomeOf_ok (i := .crcVer) (crcVerOutcome_of_valid _ hvalid) (Nat.zero_le _)

/-- With a valid generator all three commands complete without an error. -/
theorem exec_crc_err_of_valid {i : Instr} (hi : i ∈ [Instr.crcRem, .crcEnc, .crcVer]) {s : State}
    (h : validGenerator (operandP s) = true) : ∃ t : State, exec i s = .next t ∧ t.err = 0 := by
  have hok : ∃ r v, outcomeOf i (operandA s) (operandP s) = .ok r v false 0 := by
    simp only [List.mem_cons, List.not_mem_nil, or_false] at hi
    obtain rfl | rfl | rfl := hi
    · exact ⟨_, _, crcRemOutcome_of_valid _ h⟩
    · exact ⟨_, _, crcEncOutcome_of_valid _ h⟩
    · exact ⟨_, _, crcVerOutcome_of_valid _ h⟩
  obtain ⟨r, v, ho⟩ := hok
  exact ⟨_, exec_eq_commit i s, by rw [ho, commit_ok, writeStatus_err]⟩

/-! ### The degenerate generators (R91) -/

theorem zeros_succ (k : Nat) : zeros (k + 1) = false :: zeros k := rfl

@[simp] theorem xorFront_zeros (w : BitString) (k : Nat) : xorFront w (zeros k) = w := by
  induction w generalizing k with
  | nil => cases k <;> rfl
  | cons b w ih =>
    cases k with
    | zero => rfl
    | succ k => rw [zeros_succ, xorFront, ih, Bool.xor_false]

@[simp] theorem degree_one_zeros (k : Nat) : degree (true :: zeros k) = k := by simp [degree]

/-- Such a generator only clears the bit at the position it is applied to, so the scan leaves what follows as it is. -/
theorem crcDivide_one_zeros (k n : Nat) (w : BitString) : crcDivide (true :: zeros k) n w = w.drop n := by
  induction n generalizing w with
  | zero => rfl
  | succ n ih =>
    cases w with
    | nil => rfl
    | cons b w => rw [crcDivide, List.tail_cons, xorFront_zeros, ite_self, ih, List.drop_succ_cons]

/-- What follows the message is the `k` zeros appended to it. -/
theorem crcRemainder_one_zeros (m : BitString) (k : Nat) : crcRemainder m (true :: zeros k) = zeros k := by
  rw [crcRemainder_eq_divide, crcDivide_one_zeros, List.drop_left, degree_one_zeros]

theorem allzero_zeros (k : Nat) : allzero (zeros k) = true := by simp [allzero, zeros]

/-- Settles O24: the remainder by such a generator is `k` zeros; encode, verify and the commands follow from that and
from its first bit being 1. -/
theorem crcDegenerateGenerators : Obligations.CrcDegenerateGenerators := by
  intro k
  have hvalid : validGenerator (true :: zeros k) = true := validGenerator_eq_bitAt_zero _
  refine ⟨hvalid, fun m => ⟨crcRemainder_one_zeros m k, ?_, ?_⟩, fun s hs i hi => ?_⟩
  · rw [crcEncode, crcRemainder_one_zeros]
  · rw [crcVerify, crcRemainder_one_zeros, allzero_zeros]
  · exact exec_crc_err_of_valid hi (hs ▸ hvalid)

end Sys2Proof.Machine
end

section
/-! The error outcomes (60_exceptions.md): which code each command word leaves in ERR (R110), and that a code other than
0 never comes without the rest of the error outcome (R112). -/

namespace Sys2Proof.Machine

/-! ### The error codes (R110) -/

/-- The rows of R110 for one command: the code it leaves in ERR, by the operands it reads. -/
def errorOf (i : Instr) (s : State) : BitVec 3 :=
  match i with
  | .parEnc | .parVer => 0
  | .hamEnc => if s.alen.toNat = 4 then 0 else 1
  | .hamDec => if s.alen.toNat = 7 then 0 else 1
  | .crcRem | .crcEnc | .crcVer => if s.plen.toNat = 0 ∨ bitAt (operandP s) 0 = false then 2 else 0

/-- The generator alone decides the code of a CRC command. -/
theorem exec_crc_err {i : Instr} (hi : i ∈ [Instr.crcRem, .crcEnc, .crcVer]) (s : State) :
    ∃ t : State, exec i s = .next t ∧
      t.err = if s.plen.toNat = 0 ∨ bitAt (operandP s) 0 = false then 2 else 0 := by
  split
  case isTrue hbad =>
    obtain ⟨t, ht, herror⟩ := exec_crc_of_invalid hi hbad
    exact ⟨t, ht, herror.status.err⟩
  case isFalse hgood =>
    have hbit : bitAt (operandP s) 0 = true := Bool.eq_true_of_not_eq_false fun h => hgood (.inr h)
    exact exec_crc_err_of_valid hi ((validGenerator_eq_bitAt_zero _).trans hbit)

/-- A command that completes under a condition and raises one error otherwise. -/
theorem exec_err_of_outcomeOf {i : Instr} {s : State} {q : Prop} [Decidable q] {x : ErrorCause}
    (hok : q → ∃ r v c epos, outcomeOf i (operandA s) (operandP s) = .ok r v c epos)
    (herr : ¬ q → outcomeOf i (operandA s) (operandP s) = .err x) :
    ∃ t : State, exec i s = .next t ∧ t.err = if q then 0 else errorCode x := by
  refine ⟨_, exec_eq_commit i s, ?_⟩
  split
  case isTrue hq =>
    obtain ⟨r, v, c, epos, ho⟩ := hok hq
    rw [ho, commit_ok, writeStatus_err]
  case isFalse hq => rw [herr hq, commit_err, raiseError_err]

/-- The length of A alone decides the code of HAM.ENC. -/
theorem exec_hamEnc_err (s : State) :
    ∃ t : State, exec .hamEnc s = .next t ∧ t.err = if s.alen.toNat = 4 then 0 else 1 := by
  simp only [← length_operandA]
  exact exec_err_of_outcomeOf (x := .invalidLength) (fun h => ⟨_, _, _, _, hamEncOutcome_of_length_eq h⟩)
    hamEncOutcome_of_length_ne

/-- The length of A alone decides the code of HAM.DEC. -/
theorem exec_hamDec_err (s : State) :
    ∃ t : State, exec .hamDec s = .next t ∧ t.err = if s.alen.toNat = 7 then 0 else 1 := by
  simp only [← length_operandA]
  exact exec_err_of_outcomeOf (x := .invalidLength) (fun h => ⟨_, _, _, _, hamDecOutcome_of_length_eq h⟩)
    hamDecOutcome_of_length_ne

/-- Each command leaves the code of its own row. -/
theorem exec_err (i : Instr) (s : State) : ∃ t : State, exec i s = .next t ∧ t.err = errorOf i s := by
  cases i with
  | parEnc => exact ⟨_, exec_eq_commit .parEnc s, rfl⟩
  | parVer => exact ⟨_, exec_eq_commit .parVer s, rfl⟩
  | hamEnc => exact exec_hamEnc_err s
  | hamDec => exact exec_hamDec_err s
  | crcRem => exact exec_crc_err (by decide) s
  | crcEnc => exact exec_crc_err (by decide) s
  | crcVer => exact exec_crc_err (by decide) s

theorem executeCommand_encode (i : Instr) (s : State) : executeCommand (encode i) s = exec i s := by
  rw [executeCommand, decode_encode]

/-- Settles O27: a word that encodes a command leaves the code of its row, and any other word IllegalCommand's. -/
theorem errorCodesAreComplete : Obligations.ErrorCodesAreComplete := by
  intro w s
  by_cases hlegal : ∃ i : Instr, w = encode i
  · obtain ⟨i, rfl⟩ := hlegal
    obtain ⟨t, ht, herr⟩ := exec_err i s
    refine ⟨t, (executeCommand_encode i s).trans ht, herr.trans ?_⟩
    cases i <;> rfl
  · have hne : ∀ i : Instr, w ≠ encode i := not_exists.1 hlegal
    have hpar : ¬ (w = 0x10 ∨ w = 0x11) := not_or_intro (hne .parEnc) (hne .parVer)
    have henc : w ≠ 0x20 := hne .hamEnc
    have hdec : w ≠ 0x21 := hne .hamDec
    have hcrc : ¬ (w = 0x30 ∨ w = 0x31 ∨ w = 0x32) :=
      not_or_intro (hne .crcRem) (not_or_intro (hne .crcEnc) (hne .crcVer))
    refine ⟨_, executeCommand_of_ne_encode hne s, ?_⟩
    rw [if_neg hpar, if_neg henc, if_neg hdec, if_neg hcrc]
    rfl

/-! ### The error outcome (R112) -/

/-- Every word commits an outcome that R110 and R111 allow. -/
theorem executeCommand_eq_commit (w : Word) (s : State) :
    ∃ o : CmdOutcome, o.Legal ∧ executeCommand w s = .next (commit o s) := by
  unfold executeCommand
  split
  case h_1 i _ => exact ⟨_, outcomeOf_legal i (length_operandA_le s) (length_operandP_le s), exec_eq_commit i s⟩
  case h_2 => exact ⟨.err .illegalCommand, by simp, rfl⟩

/-- Only an error leaves ERR nonzero, and it leaves the whole error outcome with it. -/
theorem commit_errorOutcome {o : CmdOutcome} (h : o.Legal) {s : State} (hne : (commit o s).err ≠ 0) :
    ((commit o s).err = 1 ∨ (commit o s).err = 2 ∨ (commit o s).err = 4) ∧
      ErrorOutcome (commit o s).err s (commit o s) := by
  cases o with
  | ok r v c epos => exact absurd rfl hne
  | err x => exact ⟨errorCode_legal h, raiseError_outcome x s⟩

/-- Settles O28: every word commits a legal outcome, and of those only an error leaves ERR nonzero. -/
theorem errorsLeaveTheErrorOutcome : Obligations.ErrorsLeaveTheErrorOutcome := by
  intro w s
  obtain ⟨o, hlegal, ho⟩ := executeCommand_eq_commit w s
  exact ⟨_, ho, commit_errorOutcome hlegal⟩

end Sys2Proof.Machine
end

section
/-! The invariants of R24 along a step, from what one action of the host keeps; and that every step completes. -/

namespace Sys2Proof.Machine

/-- Taking the host's next action off its list leaves every register. -/
theorem takeAction_sameOutcome (s : State) : SameOutcome s (takeAction s) := ⟨rfl, rfl, rfl, rfl, rfl, rfl⟩

/-- The step carries out the next action, and every action completes and keeps R24. -/
theorem step_inv {s : State} (hs : Inv s) : ∃ t : State, step s = .next t ∧ Inv t :=
  perform_inv (nextAction s) (hs.of_sameOutcome (takeAction_sameOutcome s))

/-- Settles O49: the step has one successor state, and it meets R24. -/
theorem everyStepKeepsTheInvariants : Obligations.EveryStepKeepsTheInvariants := by
  intro s t hs hstep
  obtain ⟨u, hu, hinv⟩ := step_inv hs
  obtain rfl : u = t := Host.Outcome.next.inj (hu.symm.trans hstep)
  exact hinv

/-- Settles O50: the word commits a legal outcome, or raises IllegalCommand. -/
theorem everyCommandEstablishesTheInvariants : Obligations.EveryCommandEstablishesTheInvariants :=
  executeCommand_inv

/-- Settles O51: the reset state holds the empty result and a status of zeros. -/
theorem resetMeetsTheInvariants : Obligations.ResetMeetsTheInvariants := reset_inv

/-- Every action of the host completes, from any state. -/
theorem perform_completes (a : HostAction) (s : State) : ∃ t : State, perform a s = .next t := by
  cases a with
  | idle => exact ⟨s, rfl⟩
  | regRead idx => exact ⟨_, rfl⟩
  | regWrite idx v =>
    rw [perform]
    split
    · obtain ⟨t, ht, -⟩ := executeCommand_inv v s
      exact ⟨t, ht⟩
    · exact ⟨_, rfl⟩
  | reset => exact ⟨_, rfl⟩

/-- Settles O48: a step is one action of the host. -/
theorem everyStepCompletes : Obligations.EveryStepCompletes :=
  fun s => perform_completes (nextAction s) (takeAction s)

end Sys2Proof.Machine
end

section
/-! HAM.DEC on two flips of a coded word (41_hamming.md section 3): the syndrome names a third index, and the three
flips together change the data. -/

namespace Sys2Proof.Machine

theorem syndrome_flip_flip_hamEncode (d : BitString) {i j : Nat} (hi : i < 7) (hj : j < 7) :
    syndrome (flip (flip (hamEncode d) i) j) = (i + 1) ^^^ (j + 1) := by
  rw [syndrome_flip (by simp) hj, syndrome_flip_hamEncode d hi]

/-- The working copy differs from the coded word at `i`, at `j` and at the index the syndrome names. -/
theorem bitAt_hamCorrect_flip_flip (d : BitString) {i j : Nat} (hi : i < 7) (hj : j < 7) (m : Nat) :
    bitAt (hamCorrect (flip (flip (hamEncode d) i) j)) m =
      (bitAt (hamEncode d) m ^^ (decide (i = m) ^^ decide (j = m) ^^ decide ((i + 1) ^^^ (j + 1) = m + 1))) := by
  have hflips : bitAt (flip (flip (hamEncode d) i) j) m = (bitAt (hamEncode d) m ^^ decide (i = m) ^^ decide (j = m)) := by
    rw [bitAt_flip (by simpa using hj), bitAt_flip (by simpa using hi)]
  rw [bitAt_hamCorrect (by simp), syndrome_flip_flip_hamEncode d hi hj, hflips]
  by_cases hn : (i + 1) ^^^ (j + 1) = m + 1 <;> simp [hn]

/-- The three indices differ and their numbers add up to 0, so one of them is a data index: the numbers 1, 2 and 4 of
the parity indices alone do not. -/
theorem exists_changed_data_index {i j : Nat} (hij : i < j) (hj : j < 7) :
    ∃ m ∈ [2, 4, 5, 6], (decide (i = m) ^^ decide (j = m) ^^ decide ((i + 1) ^^^ (j + 1) = m + 1)) = true := by
  have hall : ∀ j < 7, ∀ i < j,
      ∃ m ∈ [2, 4, 5, 6], (decide (i = m) ^^ decide (j = m) ^^ decide ((i + 1) ^^^ (j + 1) = m + 1)) = true := by
    decide
  exact hall j hj i hij

/-- A word that decodes to the data agrees after correction with the coded word at every data index. -/
theorem bitAt_hamCorrect_of_hamDecode_eq {r d : BitString} (h : hamDecode r = d) :
    ∀ m ∈ [2, 4, 5, 6], bitAt (hamCorrect r) m = bitAt (hamEncode d) m := by
  subst h
  simp [hamDecode, hamEncode]

theorem hamDecode_flip_flip_ne (d : BitString) {i j : Nat} (hij : i < j) (hj : j < 7) :
    hamDecode (flip (flip (hamEncode d) i) j) ≠ d := by
  intro h
  obtain ⟨m, hm, hchanged⟩ := exists_changed_data_index hij hj
  have hsame := bitAt_hamCorrect_of_hamDecode_eq h m hm
  rw [bitAt_hamCorrect_flip_flip d (hij.trans hj) hj, hchanged] at hsame
  simp at hsame

/-- Settles O8: the syndrome of two flips is not 0, and the data they decode to is wrong. -/
theorem hamDecMiscorrectsDoubleErrors : Obligations.HamDecMiscorrectsDoubleErrors := by
  intro s d i j _ hij hj hA
  have hsyn : (i + 1) ^^^ (j + 1) ≠ 0 := fun h => by
    have := Nat.xor_eq_zero_iff.1 h
    omega
  obtain ⟨t, ht, hres, hstatus⟩ := exec_hamDec_of_decoded (s := s) (by rw [hA]; simp) rfl
    (hA ▸ syndrome_flip_flip_hamEncode d (hij.trans hj) hj)
  refine ⟨t, ht, hstatus.err, ?_, ?_, ?_⟩
  · rw [hstatus.c, correctedFlag_eq_decide, decide_eq_true hsyn]
  · rw [hres.result, length_hamDecode]
  · rw [hres.result, hA]
    exact hamDecode_flip_flip_ne d hij hj

end Sys2Proof.Machine
end

section
/-! Every command word as one function of A and P (R53, R56): the frame of the commands, the flags they set, and what
their outcome does not depend on. -/

namespace Sys2Proof.Machine

/-! ### The outcome of a word -/

/-- What a word written to CMD commits, as a function of A and P: its command's outcome, or IllegalCommand (R52, R56). -/
def wordOutcome (w : Word) (a p : BitString) : CmdOutcome :=
  match decode w with
  | .ok i => outcomeOf i a p
  | .error _ => .err .illegalCommand

@[simp] theorem wordOutcome_encode (i : Instr) (a p : BitString) : wordOutcome (encode i) a p = outcomeOf i a p := by
  rw [wordOutcome, decode_encode]

/-- All that `Execute(w)` can do. -/
theorem executeCommand_eq_commit_wordOutcome (w : Word) (s : State) :
    executeCommand w s = .next (commit (wordOutcome w (operandA s) (operandP s)) s) := by
  by_cases hlegal : ∃ i : Instr, w = encode i
  · obtain ⟨i, rfl⟩ := hlegal
    rw [executeCommand_encode, exec_eq_commit, wordOutcome_encode]
  · rw [executeCommand_of_ne_encode (not_exists.1 hlegal), wordOutcome]
    split
    case h_1 i hi => exact absurd (eq_encode_of_decode_eq_ok hi) (not_exists.1 hlegal i)
    case h_2 => rfl

/-- Settles O25: a command only commits its outcome. -/
theorem commandsKeepOperands : Obligations.CommandsKeepOperands :=
  fun i s => ⟨_, exec_eq_commit i s, commit_keeps _ s⟩

/-! ### The flags (10_state.md section 3) -/

/-- A command that leaves V = 1 is PAR.VER or CRC.VER: the others pass V = 0 to R and STATUS. -/
theorem eq_verify_of_commit_v {i : Instr} {a p : BitString} {s : State} (h : (commit (outcomeOf i a p) s).v = true) :
    i = .parVer ∨ i = .crcVer := by
  cases i with
  | parVer => exact .inl rfl
  | crcVer => exact .inr rfl
  | parEnc => cases h
  | hamEnc | hamDec | crcRem | crcEnc =>
    simp only [outcomeOf, hamEncOutcome, hamDecOutcome, crcRemOutcome, crcEncOutcome] at h
    split at h <;> cases h

/-- A command that leaves C = 1 is HAM.DEC: the others pass C = 0 to R and STATUS. -/
theorem eq_hamDec_of_commit_c {i : Instr} {a p : BitString} {s : State} (h : (commit (outcomeOf i a p) s).c = true) :
    i = .hamDec := by
  cases i with
  | hamDec => rfl
  | parEnc | parVer => cases h
  | hamEnc | crcRem | crcEnc | crcVer =>
    simp only [outcomeOf, hamEncOutcome, crcRemOutcome, crcEncOutcome, crcVerOutcome] at h
    split at h <;> cases h

/-- A word that leaves a flag encodes a command, since an illegal word clears both. -/
theorem exists_encode_of_executeCommand_flag {w : Word} {s t : State} (ht : executeCommand w s = .next t)
    (h : t.v = true ∨ t.c = true) : ∃ i : Instr, w = encode i ∧ commit (outcomeOf i (operandA s) (operandP s)) s = t := by
  by_cases hlegal : ∃ i : Instr, w = encode i
  · obtain ⟨i, rfl⟩ := hlegal
    rw [executeCommand_encode, exec_eq_commit] at ht
    exact ⟨i, rfl, Host.Outcome.next.inj ht⟩
  · rw [executeCommand_of_ne_encode (not_exists.1 hlegal)] at ht
    obtain rfl := Host.Outcome.next.inj ht
    simp at h

/-- Where R24 (d) holds, a flag that is 1 shows that there was no error. -/
theorem Inv.err_eq_zero_of_flag {t : State} (hinv : Inv t) (h : t.v = true ∨ t.c = true) : t.err = 0 := by
  by_contra hne
  obtain ⟨-, hv, hc, -⟩ := hinv.errorClears hne
  simp [hv, hc] at h

/-- Settles O29: the command alone decides which flag it may set; R24, which every command establishes, says the
rest. -/
theorem flagsAreSetOnlyByTheirCommands : Obligations.FlagsAreSetOnlyByTheirCommands := by
  intro w s
  obtain ⟨t, ht, hinv⟩ := executeCommand_inv w s
  refine ⟨t, ht, fun hv => ⟨?_, hinv.err_eq_zero_of_flag (.inl hv)⟩, fun hc => ⟨?_, hinv.err_eq_zero_of_flag (.inr hc)⟩,
    hinv.eposLegal⟩
  · obtain ⟨i, rfl, rfl⟩ := exists_encode_of_executeCommand_flag ht (.inl hv)
    exact (eq_verify_of_commit_v hv).imp (congrArg encode) (congrArg encode)
  · obtain ⟨i, rfl, rfl⟩ := exists_encode_of_executeCommand_flag ht (.inr hc)
    exact congrArg encode (eq_hamDec_of_commit_c hc)

/-! ### What the outcome does not depend on -/

/-- Equal outcomes on A and P leave the same R, RLEN and STATUS, whatever else the two states hold. -/
theorem executeCommand_sameOutcome {w : Word} {s s' : State}
    (h : wordOutcome w (operandA s) (operandP s) = wordOutcome w (operandA s') (operandP s')) :
    ∃ t t' : State, executeCommand w s = .next t ∧ executeCommand w s' = .next t' ∧ SameOutcome t t' ∧
      KeepsOperands s' t' := by
  refine ⟨_, _, executeCommand_eq_commit_wordOutcome w s, executeCommand_eq_commit_wordOutcome w s', ?_, commit_keeps _ s'⟩
  rw [h]
  exact commit_sameOutcome _ s s'

/-- The words of the PAR and HAM units do not read P. -/
theorem wordOutcome_par_ham {w : Word} (hw : w ∈ [0x10#32, 0x11#32, 0x20#32, 0x21#32]) (a p p' : BitString) :
    wordOutcome w a p = wordOutcome w a p' := by
  simp only [List.mem_cons, List.not_mem_nil, or_false] at hw
  obtain rfl | rfl | rfl | rfl := hw <;> rfl

/-- Settles O30: what is committed is a function of the word, A and P, and for PAR and HAM not of P. -/
theorem outcomeDependsOnlyOnWordAAndP : Obligations.OutcomeDependsOnlyOnWordAAndP := by
  intro w s s' hA hP
  have houtcome : wordOutcome w (operandA s) (operandP s) = wordOutcome w (operandA s') (operandP s') := by
    rw [hA]
    exact hP.elim (fun h => by rw [h]) fun h => wordOutcome_par_ham h _ _ _
  obtain ⟨t, t', ht, ht', hsame, -⟩ := executeCommand_sameOutcome houtcome
  exact ⟨t, t', ht, ht', hsame⟩

/-- A BitString view reads no bit at or above its length. -/
theorem unpack_congr {n : Nat} {ws ws' : List Word} (h : ∀ i < n, dataBit ws i = dataBit ws' i) :
    unpack n ws = unpack n ws' :=
  List.map_congr_left fun i hi => h i (List.mem_range.1 hi)

/-- Settles O31: the replaced words hold the same A and P, and a command keeps its operands. -/
theorem bitsAboveTheLengthAreIgnored : Obligations.BitsAboveTheLengthAreIgnored := by
  intro w s a0 a1 p0 p1 ha hp
  have hA : operandA { s with adata0 := a0, adata1 := a1, pdata0 := p0, pdata1 := p1 } = operandA s := unpack_congr ha
  have hP : operandP { s with adata0 := a0, adata1 := a1, pdata0 := p0, pdata1 := p1 } = operandP s := unpack_congr hp
  obtain ⟨t, t', ht, ht', hsame, hkeeps⟩ := executeCommand_sameOutcome (congrArg₂ (wordOutcome w) hA.symm hP.symm)
  exact ⟨t, t', ht, ht', hsame, hkeeps.adata0, hkeeps.adata1, hkeeps.pdata0, hkeeps.pdata1⟩

/-! ### Repeating a command -/

/-- A state whose operands are kept has the same A. -/
theorem KeepsOperands.operandA_eq {s t : State} (h : KeepsOperands s t) : operandA t = operandA s := by
  rw [operandA, operandA, adataWords, adataWords, h.alen, h.adata0, h.adata1]

/-- A state whose operands are kept has the same P. -/
theorem KeepsOperands.operandP_eq {s t : State} (h : KeepsOperands s t) : operandP t = operandP s := by
  rw [operandP, operandP, pdataWords, pdataWords, h.plen, h.pdata0, h.pdata1]

/-- Committing one outcome twice is committing it once. -/
theorem commit_commit (o : CmdOutcome) (s : State) : commit o (commit o s) = commit o s := by cases o <;> rfl

/-- Settles O32: the first run keeps A and P, so the second commits the same outcome. -/
theorem repeatingACommandChangesNothing : Obligations.RepeatingACommandChangesNothing := by
  intro w s
  have hkeeps := commit_keeps (wordOutcome w (operandA s) (operandP s)) s
  refine ⟨_, executeCommand_eq_commit_wordOutcome w s, ?_⟩
  rw [executeCommand_eq_commit_wordOutcome, hkeeps.operandA_eq, hkeeps.operandP_eq, commit_commit]

end Sys2Proof.Machine
end

section
/-! The words that are no command by their fields (R50, R52), and the seven words that are one (R51). -/

namespace Sys2Proof.Machine

/-- A word decodes to no command exactly when it is none of the seven. -/
theorem decode_toOption_eq_none_iff (w : Word) : (decode w).toOption = none ↔ ∀ i : Instr, w ≠ encode i := by
  constructor
  · rintro h i rfl
    rw [decode_encode] at h
    cases h
  · intro h
    cases hd : decode w with
    | ok i => exact absurd (eq_encode_of_decode_eq_ok hd) (h i)
    | error e => rfl

/-- The words of the opcode map as numbers (R51). -/
theorem forall_ne_encode_iff (w : Word) : (∀ i : Instr, w ≠ encode i) ↔
    w.toNat ∉ [0x10, 0x11, 0x20, 0x21, 0x30, 0x31, 0x32] := by
  have hwords : [0x10, 0x11, 0x20, 0x21, 0x30, 0x31, 0x32] =
      [Instr.parEnc, .parVer, .hamEnc, .hamDec, .crcRem, .crcEnc, .crcVer].map fun i => (encode i).toNat := rfl
  rw [hwords]
  constructor
  · intro h hmem
    obtain ⟨i, -, hi⟩ := List.mem_map.1 hmem
    exact h i (BitVec.eq_of_toNat_eq hi.symm)
  · rintro h i rfl
    exact h (List.mem_map_of_mem (by cases i <;> decide))

/-- Settles O34: the seven numbers are those with ZERO = 0 and a UNIT and FUNC of the opcode map. -/
theorem illegalWordsByTheirFields : Obligations.IllegalWordsByTheirFields := by
  intro w
  rw [decode_toOption_eq_none_iff, forall_ne_encode_iff]
  simp only [List.mem_cons, List.not_mem_nil, or_false]
  omega

/-- Settles O35, by evaluation of the decoder on each written-out word. -/
theorem sevenWordsDecode : Obligations.SevenWordsDecode := by
  unfold Obligations.SevenWordsDecode
  decide

end Sys2Proof.Machine
end

section
/-! The port (20_memory.md sections 1, 2, 5 and 6): reads, writes, the step that runs a command, reset and idle. -/

namespace Sys2Proof.Machine

/-! ### Reads and writes, register by register -/

theorem toNat_statusWord (s : State) :
    (statusWord s).toNat = s.err.toNat + 8 * s.v.toNat + 16 * s.c.toNat + 32 * s.epos.toNat := by
  have herr := s.err.isLt
  have hepos := s.epos.isLt
  have hv := s.v.toNat_le
  have hc := s.c.toNat_le
  rw [statusWord, BitVec.toNat_ofNat]
  omega

/-- The word of each register number as a number (R31, R32). -/
theorem toNat_readRegister (idx : RegNum) (s : State) :
    (readRegister idx s).toNat =
      (if idx = 1 then s.err.toNat + 8 * s.v.toNat + 16 * s.c.toNat + 32 * s.epos.toNat
       else if idx = 2 then s.alen.toNat
       else if idx = 3 then s.plen.toNat
       else if idx = 4 then s.rlen.toNat
       else if idx = 8 then s.adata0.toNat
       else if idx = 9 then s.adata1.toNat
       else if idx = 12 then s.pdata0.toNat
       else if idx = 13 then s.pdata1.toNat
       else if idx = 16 then s.rdata0.toNat
       else if idx = 17 then s.rdata1.toNat
       else if idx = 18 then s.rdata2.toNat
       else if idx = 19 then s.rdata3.toNat
       else 0) := by
  simp only [← BitVec.toNat_inj (x := idx)]
  unfold readRegister
  split <;> simp_all [toNat_statusWord, BitVec.toNat_setWidth_of_le, -BitVec.toNat_setWidth]

/-- What a write other than to CMD stores, field by field (R31, R33). -/
theorem writeRegister_eq (idx : RegNum) (v : Word) (s : State) :
    writeRegister idx v s =
      { s with
        alen := if idx = 2 then v.extractLsb' 0 6 else s.alen
        plen := if idx = 3 then v.extractLsb' 0 6 else s.plen
        adata0 := if idx = 8 then v else s.adata0
        adata1 := if idx = 9 then v else s.adata1
        pdata0 := if idx = 12 then v else s.pdata0
        pdata1 := if idx = 13 then v else s.pdata1 } := by
  simp only [← BitVec.toNat_inj (x := idx)]
  unfold writeRegister
  split <;> simp_all [BitVec.setWidth_eq_extractLsb']

theorem perform_regRead (idx : RegNum) (s : State) :
    perform (.regRead idx) s = .next (deliver (readRegister idx s) s) := rfl

theorem perform_regWrite_cmd (w : Word) (s : State) : perform (.regWrite 0 w) s = executeCommand w s := rfl

theorem perform_regWrite_of_ne {idx : RegNum} (h : idx ≠ 0) (v : Word) (s : State) :
    perform (.regWrite idx v) s = .next (writeRegister idx v s) := if_neg h

/-- Settles O37: the step delivers the register's word. -/
theorem regReadReturnsTheRegister : Obligations.RegReadReturnsTheRegister := by
  intro s idx rest h
  exact ⟨readRegister idx { s with pending := rest }, step_of_pending s _ rest h, toNat_readRegister idx _⟩

/-- Settles O38: number 0 executes, and any other number stores as its row says. -/
theorem regWriteStoresIntoTheRegister : Obligations.RegWriteStoresIntoTheRegister := by
  intro s idx v rest h
  rw [step_of_pending s _ rest h]
  split
  case isTrue hcmd => rw [hcmd, perform_regWrite_cmd]
  case isFalse hne => rw [perform_regWrite_of_ne hne, writeRegister_eq]

/-- The reserved numbers of 20_memory.md section 1 are none of the register map's. -/
def Reserved (idx : RegNum) : Prop := idx.toNat ∈ [5, 6, 7, 10, 11, 14, 15] ∨ 20 ≤ idx.toNat

theorem readRegister_of_reserved {idx : RegNum} (h : Reserved idx) (s : State) : readRegister idx s = 0 := by
  unfold readRegister
  split <;> simp_all [Reserved]

theorem writeRegister_of_reserved {idx : RegNum} (h : Reserved idx) (v : Word) (s : State) :
    writeRegister idx v s = s := by
  unfold writeRegister
  split <;> simp_all [Reserved]

/-- Settles O39: no row of the two tables of section 2 is a reserved number's. -/
theorem reservedNumbersHoldNothing : Obligations.ReservedNumbersHoldNothing := by
  intro s idx v h
  have hne : idx ≠ 0 := by
    rintro rfl
    simp at h
  constructor
  · rw [perform_regRead, readRegister_of_reserved h, deliver]
  · rw [perform_regWrite_of_ne hne, writeRegister_of_reserved h]

/-- The low six bits of a word, read back as a word. -/
theorem setWidth_setWidth_six (v : Word) : (v.setWidth 6).setWidth 32 = BitVec.ofNat 32 (v.toNat % 64) := by
  apply BitVec.eq_of_toNat_eq
  simp

/-- Settles O40: both registers store the low six bits and read them back below zeros. -/
theorem lengthsAreStoredModulo64 : Obligations.LengthsAreStoredModulo64 := by
  intro s v
  rw [← setWidth_setWidth_six]
  exact ⟨⟨_, rfl, BitVec.toNat_setWidth .., rfl⟩, ⟨_, rfl, BitVec.toNat_setWidth .., rfl⟩⟩

/-! ### The step that runs a command -/

/-- Settles O36: the head of the host's list is a write of the command's word to CMD. -/
theorem stepRunsTheDecodedCommand : Obligations.StepRunsTheDecodedCommand := by
  have hstep : ∀ (s : State) (i : Instr) (rest : List HostAction), s.pending = .regWrite 0 (encode i) :: rest →
      step s = exec i { s with pending := rest } := fun s i rest h => by
    rw [step_of_pending s _ rest h, perform_regWrite_cmd, executeCommand_encode]
  constructor
  · intro s w i rest h hdecode
    obtain rfl := eq_encode_of_decode_eq_ok hdecode
    exact hstep s i rest h
  · intro s i
    have hword : BitVec.ofNat 32 ((encode i).toNat % 2 ^ 32) = encode i := by cases i <;> rfl
    refine hstep _ i s.pending ?_
    rw [State.withFetchWord, hword]
    rfl

/-- A command neither reads nor writes the host's list. -/
theorem commit_with_pending (o : CmdOutcome) (s : State) (acts : List HostAction) :
    commit o { s with pending := acts } = { commit o s with pending := acts } := by cases o <;> rfl

/-- So it completes alike whatever the host does next. -/
theorem executeCommand_with_pending {w : Word} {s t : State} (h : executeCommand w s = .next t)
    (acts : List HostAction) : executeCommand w { s with pending := acts } = .next { t with pending := acts } := by
  rw [executeCommand_eq_commit_wordOutcome] at h ⊢
  obtain rfl := Host.Outcome.next.inj h
  exact congrArg _ (commit_with_pending _ s acts)

theorem run_succ_of_next {s t : State} (h : step s = .next t) (k : Nat) :
    Sys2Proof.core.run (k + 1) s = Sys2Proof.core.run k t := by
  have hstep : Sys2Proof.core.step s = .next t := h
  simp only [Host.Core.run, hstep]

/-- Settles O41: the first step leaves the command's state with the read still on the host's list, and the second
reads that state. -/
theorem readAfterCommandSeesItsOutcome : Obligations.ReadAfterCommandSeesItsOutcome := by
  intro s w idx rest h
  obtain ⟨o, -, ho⟩ := executeCommand_eq_commit w { s with pending := rest }
  have hkeeps := commit_keeps o { s with pending := rest }
  generalize commit o { s with pending := rest } = t at ho hkeeps
  have hfirst : step s = .next { t with pending := .regRead idx :: rest } := by
    rw [step_of_pending s _ _ h, perform_regWrite_cmd]
    exact executeCommand_with_pending ho _
  obtain rfl : rest = t.pending := hkeeps.pending.symm
  have hsecond : step { t with pending := .regRead idx :: t.pending } = .next (deliver (readRegister idx t) t) :=
    step_of_pending { t with pending := .regRead idx :: t.pending } _ t.pending rfl
  refine ⟨t, ho, ?_⟩
  rw [run_succ_of_next hfirst, run_succ_of_next hsecond, ← (hkeeps.received : t.received = s.received)]
  rfl

/-! ### The pins, reset and idle -/

/-- Settles O44, along the tests of `rst`, then `sel` and `ready`, then `wr`. -/
theorem portCycleCarriesOneAction : Obligations.PortCycleCarriesOneAction := by
  intro p
  refine ⟨fun hrst => ?_, fun hrst hsel hready hwr => ?_, fun hrst hsel hready hwr => ?_, fun hrst hnone s => ?_⟩
  · simp [portAction, hrst]
  · simp [portAction, hrst, hsel, hready, hwr]
  · have hread : portAction p = .regRead p.addr := by simp [portAction, hrst, hsel, hready, hwr]
    exact ⟨hread, fun s => by rw [portRdata, hread]⟩
  · have hidle : portAction p = .idle := by obtain h | h := hnone <;> simp [portAction, hrst, h]
    rw [hidle, perform]

/-- Settles O46: the step is the reset of the block. -/
theorem resetFromEveryState : Obligations.ResetFromEveryState :=
  fun s rest h => step_of_pending s .reset rest h

/-- Settles O47: an empty list and an idle action both leave the registers. -/
theorem idleHoldsTheState : Obligations.IdleHoldsTheState := by
  constructor
  · intro s h
    have htake : takeAction s = s := by rw [takeAction, h, List.tail_nil, ← h]
    rw [step, nextAction, h, htake, perform]
  · exact fun s rest h => step_of_pending s .idle rest h

end Sys2Proof.Machine
end

section
/-! The load lines and the software calls (30_encoding.md R57, 44_environment.md R108): what the writes of `lda` and
`ldp` leave, and what a host program of loads and one command answers. -/

namespace Sys2Proof.Machine

open Sys2Proof.Claims

/-! ### Loading a BitString -/

/-- Words that agree with the image of a BitString as far as it reaches hold that BitString (R11, R34). -/
theorem unpack_eq_of_words {a : BitString} {ws : List Word} (h : ∀ w, 32 * w < a.length → ws.getD w 0 = pack a w) :
    unpack a.length ws = a := by
  refine bitString_ext (by simp) fun i hi => ?_
  have hi' : i < a.length := by simpa using hi
  rw [bitAt_unpack _ _ _ hi', dataBit, h (i / 32) (by omega), getLsbD_pack _ _ _ (Nat.mod_lt _ (by decide)),
    Nat.div_add_mod]

/-- The words of a data register pair after a load: those the BitString does not reach keep what they held. -/
def loadedWords (a : BitString) (w0 w1 : Word) : List Word :=
  [if 0 < a.length then pack a 0 else w0, if 32 < a.length then pack a 1 else w1]

/-- A length register and the words of a load hold the BitString. -/
theorem unpack_loadedWords {a : BitString} (h : a.length ≤ 63) (w0 w1 : Word) :
    unpack (BitVec.ofNat 6 a.length).toNat (loadedWords a w0 w1) = a := by
  have hlen : (BitVec.ofNat 6 a.length).toNat = a.length := by
    rw [BitVec.toNat_ofNat]
    omega
  rw [hlen]
  refine unpack_eq_of_words fun w hw => ?_
  obtain rfl | rfl : w = 0 ∨ w = 1 := by omega
  · exact if_pos hw
  · exact if_pos hw

/-- One data write of a load, where the BitString reaches that word (R57). -/
def loadWord (dataReg w : Nat) (a : BitString) (s : State) : State :=
  if 32 * w < a.length then writeRegister (BitVec.ofNat 5 (dataReg + w)) (pack a w) s else s

/-- A load of at most two words: the length, then the words it reaches. -/
def loadState (lenReg dataReg : Nat) (a : BitString) (s : State) : State :=
  loadWord dataReg 1 a (loadWord dataReg 0 a (writeRegister (BitVec.ofNat 5 lenReg) (BitVec.ofNat 32 a.length) s))

theorem performAll_regWrite_of_ne {idx : RegNum} (h : idx ≠ 0) (v : Word) (rest : List HostAction) (s : State) :
    performAll (.regWrite idx v :: rest) s = performAll rest (writeRegister idx v s) :=
  performAll_cons_of_next (perform_regWrite_of_ne h v s) rest

/-- The writes of a load line, none of them to CMD, are that load. -/
theorem performAll_loadActions {lenReg dataReg : Nat} (hl : BitVec.ofNat 5 lenReg ≠ 0#5)
    (h0 : BitVec.ofNat 5 dataReg ≠ 0#5) (h1 : BitVec.ofNat 5 (dataReg + 1) ≠ 0#5) {a : BitString}
    (h : a.length ≤ 63) (s : State) :
    performAll (loadActions lenReg dataReg a) s = .next (loadState lenReg dataReg a s) := by
  rw [loadActions, performAll_regWrite_of_ne hl]
  obtain hn | hn | hn : a.length = 0 ∨ (0 < a.length ∧ a.length ≤ 32) ∨ 32 < a.length := by omega
  · have hcount : wordCount a.length = 0 := by rw [hn]; rfl
    simp only [hcount, List.range_zero, List.map_nil]
    rw [performAll, loadState, loadWord, loadWord, if_neg (by omega), if_neg (by omega)]
  · have hcount : wordCount a.length = 1 := by rw [wordCount]; omega
    simp only [hcount, List.range_one, List.map_cons, List.map_nil, Nat.add_zero]
    rw [performAll_regWrite_of_ne h0, performAll, loadState, loadWord, loadWord, if_neg (by omega), if_pos (by omega)]
    rfl
  · have hcount : wordCount a.length = 2 := by rw [wordCount]; omega
    simp only [hcount, List.range_succ, List.range_zero, List.nil_append, List.cons_append, List.map_cons, List.map_nil,
      Nat.add_zero]
    rw [performAll_regWrite_of_ne h0, performAll_regWrite_of_ne h1, performAll, loadState, loadWord, loadWord,
      if_pos (by omega), if_pos (by omega)]
    rfl

/-- A length of at most 32 bits, stored in six of them. -/
theorem setWidth_six_ofNat (n : Nat) : (BitVec.ofNat 32 n).setWidth 6 = BitVec.ofNat 6 n := by
  apply BitVec.eq_of_toNat_eq
  simp only [BitVec.toNat_setWidth, BitVec.toNat_ofNat]
  omega

theorem loadState_lda (a : BitString) (s : State) :
    loadState 2 8 a s = { s with
      alen := BitVec.ofNat 6 a.length
      adata0 := if 0 < a.length then pack a 0 else s.adata0
      adata1 := if 32 < a.length then pack a 1 else s.adata1 } := by
  rw [← setWidth_six_ofNat]
  unfold loadState loadWord
  split_ifs <;> rfl

theorem loadState_ldp (p : BitString) (s : State) :
    loadState 3 12 p s = { s with
      plen := BitVec.ofNat 6 p.length
      pdata0 := if 0 < p.length then pack p 0 else s.pdata0
      pdata1 := if 32 < p.length then pack p 1 else s.pdata1 } := by
  rw [← setWidth_six_ofNat]
  unfold loadState loadWord
  split_ifs <;> rfl

/-- `lda` loads A and touches nothing else (R57). -/
theorem performAll_lda {a : BitString} (h : a.length ≤ 63) (s : State) :
    ∃ t : State, performAll (lineActions (.lda a) s) s = .next t ∧ operandA t = a ∧
      t = { s with alen := t.alen, adata0 := t.adata0, adata1 := t.adata1 } := by
  refine ⟨_, performAll_loadActions (by decide) (by decide) (by decide) h s, ?_, ?_⟩ <;> rw [loadState_lda]
  exact unpack_loadedWords h s.adata0 s.adata1

/-- `ldp` loads P and touches nothing else (R57). -/
theorem performAll_ldp {p : BitString} (h : p.length ≤ 63) (s : State) :
    ∃ t : State, performAll (lineActions (.ldp p) s) s = .next t ∧ operandP t = p ∧
      t = { s with plen := t.plen, pdata0 := t.pdata0, pdata1 := t.pdata1 } := by
  refine ⟨_, performAll_loadActions (by decide) (by decide) (by decide) h s, ?_, ?_⟩ <;> rw [loadState_ldp]
  exact unpack_loadedWords h s.pdata0 s.pdata1

/-- Settles O42: the two lines differ in their registers alone. -/
theorem loadLinesLoadTheBitString : Obligations.LoadLinesLoadTheBitString :=
  fun s _ h => ⟨performAll_lda h s, performAll_ldp h s⟩

/-! ### Programs of loads and one command -/

/-- R and STATUS hold what an outcome says, or the error it raises. -/
def Answers (o : CmdOutcome) (t : State) : Prop :=
  match o with
  | .ok r v c epos => HoldsResult r t ∧ HoldsStatus 0 v c epos t
  | .err x => HoldsResult [] t ∧ HoldsStatus (errorCode x) false false 0 t

theorem CmdOutcome.Legal.commit_answers {o : CmdOutcome} (h : o.Legal) (s : State) : Answers o (commit o s) := by
  cases o with
  | ok r v c epos => exact commit_ok_holds r v c epos s h.length
  | err x =>
    obtain ⟨hres, hstatus, -⟩ := raiseError_outcome x s
    exact ⟨hres, hstatus⟩

theorem runLines_cons_of_next {l : HostLine} {s t : State} (h : performAll (lineActions l s) s = .next t)
    (rest : List HostLine) : runLines (l :: rest) s = runLines rest t := by
  simp only [runLines, h]

/-- A mnemonic line runs its command on A and P. -/
theorem runLines_mnemonic (i : Instr) (s : State) :
    ∃ t : State, runLines [.mnemonic i] s = .next t ∧ Answers (outcomeOf i (operandA s) (operandP s)) t := by
  have hperform : perform (.regWrite cmdNumber (encode i)) s = .next (commit (outcomeOf i (operandA s) (operandP s)) s) :=
    (executeCommand_encode i s).trans (exec_eq_commit i s)
  have hline : performAll (lineActions (.mnemonic i) s) s = .next (commit (outcomeOf i (operandA s) (operandP s)) s) :=
    performAll_cons_of_next hperform []
  have hlegal := outcomeOf_legal i (length_operandA_le s) (length_operandP_le s)
  exact ⟨_, runLines_cons_of_next hline [], hlegal.commit_answers s⟩

/-- A load of A and a command: the generator is the one P holds. -/
theorem runLines_lda_mnemonic (i : Instr) {a : BitString} (ha : a.length ≤ 63) (s : State) :
    ∃ t : State, runLines [.lda a, .mnemonic i] s = .next t ∧ Answers (outcomeOf i a (operandP s)) t := by
  obtain ⟨u, hu, hA, hframe⟩ := performAll_lda ha s
  have hP : operandP u = operandP s := by rw [hframe]; rfl
  rw [runLines_cons_of_next hu, ← hA, ← hP]
  exact runLines_mnemonic i u

/-- Loads of P and A and a command. -/
theorem runLines_ldp_lda_mnemonic (i : Instr) {a p : BitString} (ha : a.length ≤ 63) (hp : p.length ≤ 63) (s : State) :
    ∃ t : State, runLines [.ldp p, .lda a, .mnemonic i] s = .next t ∧ Answers (outcomeOf i a p) t := by
  obtain ⟨u, hu, hP, -⟩ := performAll_ldp hp s
  rw [runLines_cons_of_next hu, ← hP]
  exact runLines_lda_mnemonic i ha u

/-! ### The software calls -/

/-- The command outcome that stands for a software call (R108). -/
def callOutcome (k : EcsCall) : CmdOutcome :=
  match k with
  | .parityEncode d => parEncOutcome d
  | .parityVerify e => parVerOutcome e
  | .hammingEncode d => hamEncOutcome d
  | .hammingDecode e => hamDecOutcome e
  | .crcRemainder m p => crcRemOutcome m p
  | .crcEncode d p => crcEncOutcome d p
  | .crcVerify e p => crcVerOutcome e p
  | .crcEncodeDefault d => crcEncOutcome d Config.polyDefault
  | .crcVerifyDefault e => crcVerOutcome e Config.polyDefault

/-- The program of a call leaves that outcome. -/
theorem runLines_ecsProgram {k : EcsCall} {s : State} (h : CallFits k s) :
    ∃ t : State, runLines (ecsProgram k) s = .next t ∧ Answers (callOutcome k) t := by
  obtain ⟨hlines, hP⟩ := h
  have hlda : ∀ a, HostLine.lda a ∈ ecsProgram k → a.length ≤ 63 := fun a ha => of_decide_eq_true (hlines _ ha)
  have hldp : ∀ p, HostLine.ldp p ∈ ecsProgram k → p.length ≤ 63 := fun p hp => of_decide_eq_true (hlines _ hp)
  cases k with
  | parityEncode d => exact runLines_lda_mnemonic .parEnc (hlda d (.head _)) s
  | parityVerify e => exact runLines_lda_mnemonic .parVer (hlda e (.head _)) s
  | hammingEncode d => exact runLines_lda_mnemonic .hamEnc (hlda d (.head _)) s
  | hammingDecode e => exact runLines_lda_mnemonic .hamDec (hlda e (.head _)) s
  | crcRemainder m p => exact runLines_ldp_lda_mnemonic .crcRem (hlda m (.tail _ (.head _))) (hldp p (.head _)) s
  | crcEncode d p => exact runLines_ldp_lda_mnemonic .crcEnc (hlda d (.tail _ (.head _))) (hldp p (.head _)) s
  | crcVerify e p => exact runLines_ldp_lda_mnemonic .crcVer (hlda e (.tail _ (.head _))) (hldp p (.head _)) s
  | crcEncodeDefault d =>
    rw [callOutcome, ← (hP : operandP s = Config.polyDefault)]
    exact runLines_lda_mnemonic .crcEnc (hlda d (.head _)) s
  | crcVerifyDefault e =>
    rw [callOutcome, ← (hP : operandP s = Config.polyDefault)]
    exact runLines_lda_mnemonic .crcVer (hlda e (.head _)) s

/-- EPOS without its case split: a syndrome of 0 gives 0 either way. -/
theorem eposField_eq (n : Nat) : eposField n = BitVec.ofNat 3 (n - 1) := by
  unfold eposField
  split
  case isTrue h => rw [h]; rfl
  case isFalse => rfl

/-- An outcome decided by one test answers in each branch what that branch says. -/
theorem answers_ite {q : Prop} [Decidable q] {o o' : CmdOutcome} {t : State}
    (h : Answers (if q then o else o') t) : if q then Answers o t else Answers o' t := by
  by_cases hq : q
  · rw [if_pos hq] at h ⊢
    exact h
  · rw [if_neg hq] at h ⊢
    exact h

/-- The outcome of a call is what its function returns or the error it raises. -/
theorem callAnswered_of_answers {k : EcsCall} {t : State} (h : Answers (callOutcome k) t) : CallAnswered k t := by
  cases k with
  | parityEncode d => exact h
  | parityVerify e => exact h
  | hammingEncode d =>
    rw [callOutcome, hamEncOutcome, ite_not] at h
    exact answers_ite h
  | hammingDecode e =>
    rw [callOutcome, hamDecOutcome, ite_not, correctedFlag_eq_decide, eposField_eq] at h
    exact answers_ite h
  | crcRemainder m p => exact answers_ite h
  | crcEncode d p => exact answers_ite h
  | crcVerify e p => exact answers_ite h
  | crcEncodeDefault d => exact h
  | crcVerifyDefault e => exact h

/-- Settles O43: the program of a call leaves its outcome, and the outcome is the function's answer. -/
theorem callTransactionsComputeTheFunctions : Obligations.CallTransactionsComputeTheFunctions := by
  intro k s hfits
  obtain ⟨t, ht, hanswers⟩ := runLines_ecsProgram hfits
  exact ⟨t, ht, callAnswered_of_answers hanswers⟩

end Sys2Proof.Machine
end

section
/-! The CRC as polynomial division (42_crc.md sections 2 and 4): BitStrings as polynomials over the integers modulo 2,
XORing the generator into a window as subtracting a multiple of it, and the remainder as the polynomial remainder. -/

namespace Sys2Proof.Machine

open Sys2Proof.Claims Polynomial

/-! ### Zeros -/

theorem eq_zeros_of_bitAt {s : BitString} (h : ∀ i < s.length, bitAt s i = false) : s = zeros s.length :=
  bitString_ext (by simp) fun i hi => by rw [h i hi, bitAt_zeros]

/-- The bits that `take` keeps. -/
theorem bitAt_take_of_lt (s : BitString) {n i : Nat} (h : i < n) : bitAt (s.take n) i = bitAt s i := by
  simp [bitAt, h]

theorem bitAt_drop (s : BitString) (n i : Nat) : bitAt (s.drop n) i = bitAt s (n + i) := by
  simp [bitAt]

/-! ### BitStrings as polynomials -/

@[simp] theorem bitPoly_nil : bitPoly [] = 0 := rfl

theorem bitPoly_cons (b : Bool) (s : BitString) : bitPoly (b :: s) = (if b then X ^ s.length else 0) + bitPoly s := rfl

/-- The bits of an exclusive or, as polynomials: two ones cancel. -/
theorem ite_xor (a b : Bool) (f : (ZMod 2)[X]) :
    (if (a ^^ b) then f else 0) = (if a then f else 0) + (if b then f else 0) := by
  cases a <;> cases b <;> simp [CharTwo.add_self_eq_zero]

theorem bitPoly_append (s t : BitString) : bitPoly (s ++ t) = bitPoly s * X ^ t.length + bitPoly t := by
  induction s with
  | nil => simp
  | cons b s ih =>
    rw [List.cons_append, bitPoly_cons, ih, bitPoly_cons, List.length_append, pow_add]
    split <;> ring

@[simp] theorem bitPoly_zeros (n : Nat) : bitPoly (zeros n) = 0 := by
  induction n with
  | zero => rfl
  | succ n ih => rw [zeros_succ, bitPoly_cons, ih]; simp

/-- A BitString has a degree below its length. -/
theorem degree_bitPoly_lt (s : BitString) : (bitPoly s).degree < s.length := by
  induction s with
  | nil => simp
  | cons b s ih =>
    have hlt : ((s.length : ℕ) : WithBot ℕ) < (b :: s).length := by
      exact_mod_cast Nat.lt_succ_self _
    refine (degree_add_le _ _).trans_lt (max_lt ?_ (ih.trans hlt))
    split
    · rwa [degree_X_pow]
    · simp

/-- The leading bit is the coefficient of the highest power. -/
theorem coeff_bitPoly_cons (b : Bool) (s : BitString) : (bitPoly (b :: s)).coeff s.length = if b then 1 else 0 := by
  rw [bitPoly_cons, coeff_add, coeff_eq_zero_of_degree_lt (degree_bitPoly_lt s), add_zero]
  split
  · rw [coeff_X_pow_self]
  · rw [coeff_zero]

/-- Two BitStrings of one length are equal when their polynomials are. -/
theorem bitPoly_inj {s t : BitString} (hl : s.length = t.length) (h : bitPoly s = bitPoly t) : s = t := by
  induction s generalizing t with
  | nil => exact (List.length_eq_zero_iff.1 hl.symm).symm
  | cons a s ih =>
    match t, hl with
    | b :: t, hcons =>
      have hlen : s.length = t.length := Nat.succ.inj hcons
      have hbit : a = b := by
        have ha := coeff_bitPoly_cons a s
        have hb := coeff_bitPoly_cons b t
        rw [h, hlen, hb] at ha
        cases a <;> cases b <;> simp at ha ⊢
      subst hbit
      rw [bitPoly_cons, bitPoly_cons, hlen, add_right_inj] at h
      rw [ih hlen h]

theorem bitPoly_eq_zero_iff {s : BitString} : bitPoly s = 0 ↔ s = zeros s.length := by
  constructor
  · exact fun h => bitPoly_inj (by simp) (by rw [h, bitPoly_zeros])
  · intro h
    rw [h, bitPoly_zeros]

theorem allzero_iff_bitPoly_eq_zero (s : BitString) : allzero s = true ↔ bitPoly s = 0 := by
  rw [bitPoly_eq_zero_iff, zeros, List.eq_replicate_iff]
  simp [allzero]

/-! ### The generator -/

theorem exists_eq_cons_of_validGenerator {g : BitString} (h : validGenerator g = true) : ∃ g', g = true :: g' := by
  rw [validGenerator_eq_bitAt_zero] at h
  cases g with
  | nil => cases h
  | cons b g => exact ⟨g, by rw [← h, bitAt_cons_zero]⟩

theorem length_of_validGenerator {g : BitString} (h : validGenerator g = true) : g.length = degree g + 1 := by
  obtain ⟨g', rfl⟩ := exists_eq_cons_of_validGenerator h
  simp [Machine.degree]

/-- A valid generator has the degree `k` (R80, R81). -/
theorem degree_bitPoly_generator {g : BitString} (h : validGenerator g = true) :
    (bitPoly g).degree = (Machine.degree g : ℕ) := by
  obtain ⟨g', rfl⟩ := exists_eq_cons_of_validGenerator h
  have hlt : (bitPoly g').degree < (X ^ g'.length : (ZMod 2)[X]).degree := by
    rw [degree_X_pow]
    exact degree_bitPoly_lt g'
  rw [bitPoly_cons, if_pos rfl, degree_add_eq_left_of_degree_lt hlt, degree_X_pow]
  rfl

theorem monic_bitPoly_generator {g : BitString} (h : validGenerator g = true) : (bitPoly g).Monic := by
  obtain ⟨g', rfl⟩ := exists_eq_cons_of_validGenerator h
  exact monic_X_pow_add (degree_bitPoly_lt g')

/-! ### The scan keeps the buffer up to multiples of the generator -/

/-- XORing the generator into the front of a buffer adds a shift of it. -/
theorem bitPoly_xorFront {w g : BitString} (h : g.length ≤ w.length) :
    bitPoly (xorFront w g) = bitPoly w + bitPoly g * X ^ (w.length - g.length) := by
  induction w generalizing g with
  | nil =>
    obtain rfl : g = [] := List.length_eq_zero_iff.1 (Nat.le_zero.1 h)
    simp [xorFront]
  | cons a w ih =>
    cases g with
    | nil => simp [xorFront]
    | cons b g =>
      have hle : g.length ≤ w.length := Nat.le_of_succ_le_succ h
      have hshift : (X : (ZMod 2)[X]) ^ w.length = X ^ g.length * X ^ (w.length - g.length) := by
        rw [← pow_add, Nat.add_sub_cancel' hle]
      rw [xorFront, bitPoly_cons, length_xorFront, ih hle, bitPoly_cons, bitPoly_cons, ite_xor, List.length_cons,
        List.length_cons, Nat.add_sub_add_right, hshift]
      split <;> split <;> ring

/-- A scan position inside the buffer adds a multiple of the generator. -/
theorem dvd_bitPoly_xorWindow_sub {w g : BitString} {i : Nat} (h : i + g.length ≤ w.length) :
    bitPoly g ∣ bitPoly (xorWindow w i g) - bitPoly w := by
  have hsplit := bitPoly_append (w.take i) (w.drop i)
  rw [List.take_append_drop] at hsplit
  rw [xorWindow, bitPoly_append, length_xorFront, bitPoly_xorFront (by rw [List.length_drop]; omega), hsplit]
  exact ⟨X ^ ((w.drop i).length - g.length), by ring⟩

/-- So does a list of them (the long division of section 2). -/
theorem dvd_bitPoly_foldl_xorWindow_sub {g w : BitString} {q : List Nat} (h : ∀ i ∈ q, i + g.length ≤ w.length) :
    bitPoly g ∣ bitPoly (q.foldl (fun w i => xorWindow w i g) w) - bitPoly w := by
  induction q generalizing w with
  | nil => simp
  | cons i q ih =>
    obtain ⟨hi, hq⟩ := List.forall_mem_cons.1 h
    have hrest := ih (w := xorWindow w i g) (by simpa using hq)
    have hsum := dvd_add hrest (dvd_bitPoly_xorWindow_sub hi)
    rwa [sub_add_sub_cancel] at hsum

/-- The scan is the long division whose positions are those it found a 1 at (R82). -/
theorem exists_positions_of_crcScan (g : BitString) (n : Nat) (w : BitString) :
    ∃ q : List Nat, (∀ i ∈ q, i < n) ∧ crcScan g n w = q.foldl (fun w i => xorWindow w i g) w := by
  induction n with
  | zero => exact ⟨[], by simp, rfl⟩
  | succ n ih =>
    obtain ⟨q, hq, hscan⟩ := ih
    rw [crcScan_succ, crcScanStep]
    split
    · refine ⟨q ++ [n], fun i hi => ?_, by rw [List.foldl_append, ← hscan]; rfl⟩
      obtain hi | hi := List.mem_append.1 hi
      · exact (hq i hi).trans (Nat.lt_succ_self n)
      · exact List.mem_singleton.1 hi ▸ Nat.lt_succ_self n
    · exact ⟨q, fun i hi => (hq i hi).trans (Nat.lt_succ_self n), hscan⟩

/-! ### The scan clears what it has passed -/

/-- A window starting at `i` leaves the indices below `i`. -/
theorem bitAt_xorWindow_of_lt (w g : BitString) {i j : Nat} (h : j < i) : bitAt (xorWindow w i g) j = bitAt w j := by
  by_cases hj : j < w.length
  · rw [bitAt_eq_getElem _ _ (by simpa using hj), bitAt_eq_getElem _ _ hj]
    simp [xorWindow, h, hj]
  · rw [bitAt_of_length_le _ _ (by simpa using hj), bitAt_of_length_le _ _ (by simpa using hj)]

theorem bitAt_crcScanStep_of_lt (g w : BitString) {i j : Nat} (h : j < i) :
    bitAt (crcScanStep g w i) j = bitAt w j := by
  rw [crcScanStep]
  split
  · exact bitAt_xorWindow_of_lt w g h
  · rfl

/-- A scan position of a valid generator leaves 0 at its index: the leading 1 of the generator cancels a 1 there. -/
theorem bitAt_crcScanStep_self {g : BitString} (hg : validGenerator g = true) (w : BitString) (i : Nat) :
    bitAt (crcScanStep g w i) i = false := by
  obtain ⟨g', rfl⟩ := exists_eq_cons_of_validGenerator hg
  induction w generalizing i with
  | nil => simp [crcScanStep]
  | cons b w ih =>
    cases i with
    | zero => cases b <;> simp [crcScanStep, xorWindow, xorFront]
    | succ i => rw [crcScan_step_cons, bitAt_cons_succ, ih]

theorem bitAt_crcScan_of_lt {g : BitString} (hg : validGenerator g = true) (w : BitString) {n i : Nat} (h : i < n) :
    bitAt (crcScan g n w) i = false := by
  induction n with
  | zero => exact absurd h (Nat.not_lt_zero i)
  | succ n ih =>
    rw [crcScan_succ]
    obtain hi | rfl := Nat.lt_succ_iff_lt_or_eq.1 h
    · rw [bitAt_crcScanStep_of_lt _ _ hi, ih hi]
    · exact bitAt_crcScanStep_self hg _ _

/-- Settles O13: each position clears its own index, and later ones leave it. -/
theorem crcScanClearsTheScannedBits : Obligations.CrcScanClearsTheScannedBits :=
  fun g w _ hg _ => ⟨fun _ hi => bitAt_crcScan_of_lt hg w hi, fun _ _ hij => bitAt_crcScanStep_of_lt g w hij⟩

/-- What the whole scan leaves of `M ++ zeros(k)`: zeros, then the remainder (R82). -/
theorem crcScan_eq_zeros_append {g : BitString} (hg : validGenerator g = true) (m : BitString) :
    crcScan g m.length (m ++ zeros (Machine.degree g)) = zeros m.length ++ crcRemainder m g := by
  rw [crcRemainder, slice]
  generalize hw : crcScan g m.length (m ++ zeros (Machine.degree g)) = w
  have hlen : w.length = m.length + Machine.degree g := by rw [← hw]; simp
  have htake : (w.take m.length).length = m.length := by rw [List.length_take]; omega
  have hzeros : w.take m.length = zeros m.length := by
    have h := eq_zeros_of_bitAt (s := w.take m.length) fun i hi => by
      rw [htake] at hi
      rw [bitAt_take_of_lt w hi, ← hw, bitAt_crcScan_of_lt hg _ hi]
    rwa [htake] at h
  rw [List.take_of_length_le (by rw [List.length_drop]; omega), ← hzeros, List.take_append_drop]

/-! ### The remainder -/

/-- Whatever list of scan positions leaves zeros before a string of `k` bits, that string is the polynomial
remainder. -/
theorem bitPoly_eq_modByMonic_of_positions {m g r : BitString} (hg : validGenerator g = true)
    (hr : r.length = Machine.degree g) {q : List Nat} (hq : ∀ i ∈ q, i < m.length)
    (h : q.foldl (fun w i => xorWindow w i g) (m ++ zeros (Machine.degree g)) = zeros m.length ++ r) :
    bitPoly r = (bitPoly m * X ^ Machine.degree g) %ₘ bitPoly g := by
  have hmonic := monic_bitPoly_generator hg
  have hlen := length_of_validGenerator hg
  have hdvd := dvd_bitPoly_foldl_xorWindow_sub (g := g) (w := m ++ zeros (Machine.degree g)) (q := q) fun i hi => by
    have := hq i hi
    rw [List.length_append, length_zeros]
    omega
  rw [h, bitPoly_append, bitPoly_append, bitPoly_zeros, bitPoly_zeros, zero_mul, zero_add, add_zero, length_zeros] at hdvd
  have hlt : (bitPoly r).degree < (bitPoly g).degree := by
    rw [degree_bitPoly_generator hg, ← hr]
    exact degree_bitPoly_lt r
  rw [← modByMonic_eq_of_dvd_sub hmonic hdvd, (modByMonic_eq_self_iff hmonic).2 hlt]

/-- The positions of the scan leave zeros and the remainder. -/
theorem exists_positions_of_crcRemainder {g : BitString} (hg : validGenerator g = true) (m : BitString) :
    ∃ q : List Nat, (∀ i ∈ q, i < m.length) ∧
      q.foldl (fun w i => xorWindow w i g) (m ++ zeros (Machine.degree g)) = zeros m.length ++ crcRemainder m g := by
  obtain ⟨q, hq, hscan⟩ := exists_positions_of_crcScan g m.length (m ++ zeros (Machine.degree g))
  exact ⟨q, hq, by rw [← hscan, crcScan_eq_zeros_append hg]⟩

/-- Settles O17: the positions of the scan are such a list. -/
theorem crcRemainderIsPolynomialRemainder : Obligations.CrcRemainderIsPolynomialRemainder := by
  intro m g hg
  obtain ⟨q, hq, hdivision⟩ := exists_positions_of_crcRemainder hg m
  exact bitPoly_eq_modByMonic_of_positions hg (length_crcRemainder m g) hq hdivision

/-- Settles O14: the scan is a long division, and every long division leaves the polynomial remainder. -/
theorem crcRemainderIsTheDivisionRemainder : Obligations.CrcRemainderIsTheDivisionRemainder := by
  intro m g r hg hr
  constructor
  · rintro rfl
    exact exists_positions_of_crcRemainder hg m
  · rintro ⟨q, hq, hdivision⟩
    refine bitPoly_inj (by rw [length_crcRemainder, hr]) ?_
    rw [crcRemainderIsPolynomialRemainder m g hg, bitPoly_eq_modByMonic_of_positions hg hr hq hdivision]

end Sys2Proof.Machine
end

section
/-! What CRC verify accepts (42_crc.md section 4): multiples of the generator, so every clean encoding, and a corruption
exactly when its error pattern is one; with the consequences for single flips, bursts and odd numbers of flips. -/

namespace Sys2Proof.Machine

open Sys2Proof.Claims Polynomial

/-! ### The criterion -/

/-- Verify accepts the multiples of the generator, after the shift by `k` (R84). -/
theorem crcVerify_iff_dvd {g : BitString} (hg : validGenerator g = true) (e : BitString) :
    crcVerify e g = true ↔ bitPoly g ∣ bitPoly e * X ^ Machine.degree g := by
  rw [crcVerify, allzero_iff_bitPoly_eq_zero, crcRemainderIsPolynomialRemainder e g hg,
    modByMonic_eq_zero_iff_dvd (monic_bitPoly_generator hg)]

/-- An encoded string is a multiple of the generator: modulo 2, adding the remainder takes it away. -/
theorem dvd_bitPoly_crcEncode {g : BitString} (hg : validGenerator g = true) (d : BitString) :
    bitPoly g ∣ bitPoly (crcEncode d g) := by
  have hmod := modByMonic_add_div (bitPoly d * X ^ Machine.degree g) (bitPoly g)
  rw [← crcRemainderIsPolynomialRemainder d g hg] at hmod
  rw [crcEncode, bitPoly_append, length_crcRemainder, ← hmod, add_right_comm, CharTwo.add_self_eq_zero, zero_add]
  exact dvd_mul_right _ _

/-- Settles O16: a multiple of the generator stays one when shifted. -/
theorem crcCleanRoundTrip : Obligations.CrcCleanRoundTrip :=
  fun d _ hp => (crcVerify_iff_dvd hp _).2 ((dvd_bitPoly_crcEncode hp d).mul_right _)

/-! ### Error patterns -/

/-- A flip adds the pattern that is 1 at its index alone (nothing, for an index past the end). -/
theorem bitPoly_flip (s : BitString) (i : Nat) :
    bitPoly (flip s i) = bitPoly s + bitPoly (flip (zeros s.length) i) := by
  induction s generalizing i with
  | nil => simp [zeros, flip]
  | cons b s ih =>
    rw [List.length_cons, zeros_succ]
    cases i with
    | zero =>
      rw [flip_cons_zero, flip_cons_zero, bitPoly_cons, bitPoly_cons, bitPoly_cons, bitPoly_zeros, length_zeros,
        ← Bool.xor_true b, ite_xor]
      simp only [Bool.not_false, if_true]
      ring
    | succ i =>
      rw [flip_cons_succ, flip_cons_succ, bitPoly_cons, bitPoly_cons, bitPoly_cons, ih, length_flip]
      simp only [Bool.false_eq_true, if_false]
      ring

theorem flipAll_singleton (s : BitString) (i : Nat) : flipAll s [i] = flip s i := rfl

theorem flipAll_cons (s : BitString) (i : Nat) (is : List Nat) : flipAll s (i :: is) = flipAll (flip s i) is := rfl

/-- A list of flips adds its error pattern, whatever the string it corrupts. -/
theorem bitPoly_flipAll (s : BitString) (is : List Nat) :
    bitPoly (flipAll s is) = bitPoly s + bitPoly (flipAll (zeros s.length) is) := by
  induction is generalizing s with
  | nil => exact (add_eq_left.2 (bitPoly_zeros s.length)).symm
  | cons i is ih =>
    rw [flipAll_cons, flipAll_cons, ih (flip s i), ih (flip (zeros s.length) i), bitPoly_flip s i]
    simp only [length_flip, length_zeros]
    ring

/-- Settles O18: the corrupted string is the encoded one, a multiple of the generator, plus the error pattern. -/
theorem crcMissesExactlyTheMultiples : Obligations.CrcMissesExactlyTheMultiples := by
  intro d g is hg
  rw [crcVerify_iff_dvd hg, bitPoly_flipAll, add_mul]
  exact dvd_add_right ((dvd_bitPoly_crcEncode hg d).mul_right _)

/-- Settles O19: the error pattern depends on the length of the data alone. -/
theorem crcDetectionIndependentOfData : Obligations.CrcDetectionIndependentOfData := by
  intro d d' g is hg hlen
  rw [Bool.eq_iff_iff, crcMissesExactlyTheMultiples d g is hg, crcMissesExactlyTheMultiples d' g is hg, length_crcEncode,
    length_crcEncode, hlen]

/-! ### Single flips -/

theorem bitPoly_flip_zeros {n i : Nat} (h : i < n) : bitPoly (flip (zeros n) i) = X ^ (n - 1 - i) := by
  induction n generalizing i with
  | zero => exact absurd h (Nat.not_lt_zero i)
  | succ n ih =>
    rw [zeros_succ]
    cases i with
    | zero => simp [bitPoly_cons]
    | succ i =>
      have hi := Nat.lt_of_succ_lt_succ h
      have hexp : n + 1 - 1 - (i + 1) = n - 1 - i := by omega
      rw [flip_cons_succ, bitPoly_cons, ih hi, hexp]
      simp

/-- The generator 1 followed by zeros is the power of `x`. -/
theorem eq_one_zeros_iff {g : BitString} (hg : validGenerator g = true) :
    g = true :: zeros (Machine.degree g) ↔ bitPoly g = X ^ Machine.degree g := by
  have hpow : bitPoly (true :: zeros (Machine.degree g)) = X ^ Machine.degree g := by simp [bitPoly_cons]
  constructor
  · intro h
    rw [← hpow, ← h]
  · intro h
    exact bitPoly_inj (by simpa using length_of_validGenerator hg) (h.trans hpow.symm)

/-- The only monic divisors of a power of `x` are the powers of `x`. -/
theorem bitPoly_eq_X_pow_of_dvd {g : BitString} (hg : validGenerator g = true) {n : Nat} (h : bitPoly g ∣ X ^ n) :
    bitPoly g = X ^ Machine.degree g := by
  obtain ⟨j, -, hassoc⟩ := (dvd_prime_pow prime_X n).1 h
  have heq := eq_of_monic_of_associated (monic_bitPoly_generator hg) (monic_X_pow j) hassoc
  have hdeg := degree_bitPoly_generator hg
  rw [heq, degree_X_pow] at hdeg
  rw [heq, Nat.cast_injective hdeg]

/-- Settles O20: the error pattern of one flip is a power of `x`, shifted by `k`. -/
theorem crcSingleFlipDetected : Obligations.CrcSingleFlipDetected := by
  intro d g i hg hi
  have hcriterion := crcMissesExactlyTheMultiples d g [i] hg
  rw [flipAll_singleton, flipAll_singleton, bitPoly_flip_zeros hi, ← pow_add] at hcriterion
  refine hcriterion.trans ⟨fun h => (eq_one_zeros_iff hg).2 (bitPoly_eq_X_pow_of_dvd hg h), fun h => ?_⟩
  rw [(eq_one_zeros_iff hg).1 h]
  exact pow_dvd_pow X (Nat.le_add_left _ _)

/-! ### Bursts -/

/-- The last bit is the constant term. -/
theorem coeff_zero_bitPoly (s : BitString) : (bitPoly s).coeff 0 = if bitAt s (s.length - 1) then 1 else 0 := by
  induction s with
  | nil => simp
  | cons b s ih =>
    cases s with
    | nil => cases b <;> simp [bitPoly_cons]
    | cons c s =>
      rw [bitPoly_cons, coeff_add, ih]
      cases b <;> simp [coeff_X_pow]

/-- A generator whose last bit is 1 has no factor `x`. -/
theorem isCoprime_bitPoly_X_pow {g : BitString} (h : bitAt g (Machine.degree g) = true) (n : Nat) :
    IsCoprime (bitPoly g) (X ^ n) := by
  have hnot : ¬ X ∣ bitPoly g := by
    rw [X_dvd_iff, coeff_zero_bitPoly]
    simp [show bitAt g (g.length - 1) = true from h]
  exact (irreducible_X.coprime_iff_not_dvd.2 hnot).symm.pow_right

/-- Every index is flipped as often as it stands in the list: once, when the indices are distinct. -/
theorem bitAt_flipAll {s : BitString} {is : List Nat} (hnodup : is.Nodup) (h : ∀ i ∈ is, i < s.length) (j : Nat) :
    bitAt (flipAll s is) j = (bitAt s j ^^ decide (j ∈ is)) := by
  induction is generalizing s with
  | nil => simp [flipAll]
  | cons i is ih =>
    obtain ⟨hi, his⟩ := List.forall_mem_cons.1 h
    obtain ⟨hnot, hnodup⟩ := List.nodup_cons.1 hnodup
    rw [flipAll_cons, ih hnodup (by simpa using his), bitAt_flip hi]
    by_cases hij : i = j
    · subst hij
      simp [hnot]
    · simp [hij, Ne.symm hij]

/-- A string that is 0 outside `k` consecutive indices is those `k` bits, shifted. -/
theorem bitPoly_eq_slice_mul {e : BitString} {start k : Nat} (hfit : start + k ≤ e.length)
    (h : ∀ i < e.length, bitAt e i = true → start ≤ i ∧ i < start + k) :
    bitPoly e = bitPoly (slice e start k) * X ^ (e.length - (start + k)) := by
  have hout : ∀ i, ¬ (start ≤ i ∧ i < start + k) → bitAt e i = false := fun i hi => by
    by_cases hlen : i < e.length
    · exact Bool.eq_false_iff.2 fun hbit => hi (h i hlen hbit)
    · exact bitAt_of_length_le _ _ (Nat.le_of_not_lt hlen)
  have hbefore : bitPoly (e.take start) = 0 := by
    refine bitPoly_eq_zero_iff.2 (eq_zeros_of_bitAt fun i hi => ?_)
    have hi : i < start := by rw [List.length_take] at hi; omega
    rw [bitAt_take_of_lt e hi, hout i (by omega)]
  have hafter : bitPoly ((e.drop start).drop k) = 0 := by
    refine bitPoly_eq_zero_iff.2 (eq_zeros_of_bitAt fun i _ => ?_)
    rw [List.drop_drop, bitAt_drop, hout _ (by omega)]
  have hsplit : e = e.take start ++ (slice e start k ++ (e.drop start).drop k) := by
    rw [slice, List.take_append_drop, List.take_append_drop]
  conv_lhs => rw [hsplit]
  rw [bitPoly_append, bitPoly_append, hbefore, hafter, zero_mul, zero_add, add_zero, List.drop_drop, List.length_drop]

/-- A generator without the factor `x` divides no shifted string of at most `k` bits but the zero one. -/
theorem eq_zeros_of_dvd_burst {g e : BitString} (hg : validGenerator g = true)
    (hlast : bitAt g (Machine.degree g) = true) {start n : Nat} (hfit : start + Machine.degree g ≤ e.length)
    (h : ∀ i < e.length, bitAt e i = true → start ≤ i ∧ i < start + Machine.degree g)
    (hdvd : bitPoly g ∣ bitPoly e * X ^ n) : e = zeros e.length := by
  have hshift := bitPoly_eq_slice_mul hfit h
  rw [hshift, mul_assoc, ← pow_add] at hdvd
  have hslice := (isCoprime_bitPoly_X_pow hlast _).dvd_of_dvd_mul_right hdvd
  have hshort : (slice e start (Machine.degree g)).length ≤ Machine.degree g := List.length_take_le _ _
  have hlt : (bitPoly (slice e start (Machine.degree g))).degree < (bitPoly g).degree := by
    rw [degree_bitPoly_generator hg]
    exact (degree_bitPoly_lt _).trans_le (by exact_mod_cast hshort)
  rw [eq_zero_of_dvd_of_degree_lt hslice hlt, zero_mul] at hshift
  exact bitPoly_eq_zero_iff.1 hshift

/-- Settles O21: the error pattern is a burst that is not zero. Where the `k` indices reach past the end, the last `k`
of the string hold the same flips. -/
theorem crcShortBurstDetected : Obligations.CrcShortBurstDetected := by
  intro d g start is hg _ hlast hne hnodup his
  rw [Bool.eq_false_iff, Ne, crcMissesExactlyTheMultiples d g is hg]
  intro hdvd
  have hbits := bitAt_flipAll (s := zeros (crcEncode d g).length) hnodup fun i hi => by
    rw [length_zeros]
    exact (his i hi).2.2
  have hzeros := eq_zeros_of_dvd_burst (start := min start d.length) hg hlast
    (by simp only [length_flipAll, length_zeros, length_crcEncode]; omega)
    (fun i _ hbit => by
      rw [hbits, bitAt_zeros, Bool.false_xor, decide_eq_true_iff] at hbit
      have hi := his i hbit
      rw [length_crcEncode] at hi
      omega) hdvd
  obtain ⟨i, hi⟩ := List.exists_mem_of_ne_nil is hne
  have hbit := hbits i
  rw [hzeros, bitAt_zeros, bitAt_zeros, decide_eq_true hi] at hbit
  cases hbit

/-! ### Odd numbers of flips -/

theorem eval_one_bitPoly (s : BitString) : (bitPoly s).eval 1 = (ones s : ZMod 2) := by
  induction s with
  | nil => simp
  | cons b s ih =>
    rw [bitPoly_cons, eval_add, ih, ones_cons, Nat.cast_add, add_comm]
    cases b <;> simp

/-- A generator with an even number of ones has the factor `x + 1`, so what it accepts has one too. -/
theorem ones_mod_two_of_crcVerify {g e : BitString} (hg : validGenerator g = true) (hones : ones g % 2 = 0)
    (h : crcVerify e g = true) : ones e % 2 = 0 := by
  obtain ⟨q, hq⟩ := (crcVerify_iff_dvd hg e).1 h
  have heval := congrArg (eval 1) hq
  have hroot : (ones g : ZMod 2) = 0 := (ZMod.natCast_eq_zero_iff _ _).2 (Nat.dvd_of_mod_eq_zero hones)
  rw [eval_mul, eval_mul, eval_one_bitPoly, eval_one_bitPoly, eval_pow, eval_X, one_pow, mul_one, hroot, zero_mul,
    ZMod.natCast_eq_zero_iff] at heval
  exact Nat.mod_eq_zero_of_dvd heval

/-- Settles O22: the encoded string has an even number of ones, and the flips make it odd. -/
theorem crcOddFlipsDetectedByEvenGenerator : Obligations.CrcOddFlipsDetectedByEvenGenerator := by
  intro d g is hg hones _ his hodd
  have hclean := ones_mod_two_of_crcVerify hg hones (crcCleanRoundTrip d g hg)
  have hflips := ones_flipAll_mod_two his
  refine Bool.eq_false_iff.2 fun hverify => ?_
  have heven := ones_mod_two_of_crcVerify hg hones hverify
  omega

/-! ### The generator 11 -/

/-- The one bit that makes the encoded string's number of ones even is the parity bit. -/
theorem crcRemainder_eleven (d : BitString) : crcRemainder d [true, true] = [!evenOnes d] := by
  obtain ⟨b, hb⟩ := List.length_eq_one_iff.1 (length_crcRemainder d [true, true])
  have heven := ones_mod_two_of_crcVerify rfl rfl (crcCleanRoundTrip d [true, true] rfl)
  rw [crcEncode, hb, ones_append, ones_cons, ones_nil] at heven
  have hparity := toNat_not_evenOnes d
  have hle := b.toNat_le
  have hbit : b = true ↔ (!evenOnes d) = true := by
    rw [← Bool.toNat_eq_one, ← Bool.toNat_eq_one]
    omega
  rw [hb, Bool.eq_iff_iff.2 hbit]

/-- Settles O23: the remainder by 11 is the parity bit, and verify tests that it is 0. -/
theorem crcElevenIsParity : Obligations.CrcElevenIsParity := by
  intro d
  rw [crcEncode, crcVerify, crcRemainder_eleven]
  exact ⟨rfl, by simp [allzero, parVerify]⟩

end Sys2Proof.Machine
end
